-- ==== Sys2Proof/Word.lean ====
section
/-! DEFINITION. The word types of Boneless-III (spec/00_scope.md R2, R6). -/

namespace Sys2Proof

/-- The 16-bit word: every instruction, register, memory word, address and bus word (R2, R6). -/
abbrev Word := BitVec 16

/-- Half of a word. The architecture has no byte (spec/20_memory.md R45); the model's memory cells are halves of words. -/
abbrev Byte := BitVec 8

/-- A register number, the 3-bit field `Rd`, `Ra`, `Rb` or `Rs` (spec/30_encoding.md R62). -/
abbrev Reg := BitVec 3

/-- A window number, the 13 bits of `W` (spec/10_state.md R24). -/
abbrev Window := BitVec 13

end Sys2Proof
end

