-- ==== Sys2Proof/Config.lean ====
section
/-! DEFINITION. What an implementation or its platform fixes (spec/00_scope.md R6, spec/92_eei_decisions.md), and the
free values: constants without a body, so that nothing proved can rest on what they are. -/

namespace Sys2Proof

/-- One access on the external bus (spec/20_memory.md R44): `ExtRead(a)` with the word the platform answered, or
`ExtWrite(a, v)`. -/
inductive BusEvent where
  | read (addr : Word) (answer : Word)
  | write (addr : Word) (data : Word)
deriving DecidableEq, Repr

namespace Config

/-- `decode_immediate : imm3 -> 16-bit value`, an OPEN parameter (spec/30_encoding.md R72, D1): the second operand of the
short-form ALU immediates. DESIGN CHOICE, log 10: a free value. -/
opaque decodeImmediate : BitVec 3 → Word

/-- The word at an address that nothing has written since reset: what `mem_init` gives it, or, where `mem_init` gives
none, any value (spec/20_memory.md R40, spec/60_exceptions.md R214, D14). DESIGN CHOICE, log 1: a free value for each
address; reads are idempotent (R47), so it does not depend on when it is read. -/
opaque memInit : Word → Word

/-- The word the platform answers to a bus read at an address, after the accesses made so far, when State gives no answer
of its own (spec/20_memory.md R44, D17). DESIGN CHOICE, log 8: a free value. -/
opaque extRead : List BusEvent → Word → Word

/-- The `n`-th draw of `undef()` (spec/00_scope.md R11, D20). DESIGN CHOICE, log 9: a free value. -/
opaque undefBit : Nat → Bool

/-- `reset_pc`, an OPEN parameter (spec/10_state.md R35, D13). DESIGN CHOICE, log 3: the value the spec's own test
programs take (spec/95_test_vectors.md, part 3). -/
def resetPc : Word := 0x0100#16

/-- `reset_w`, an OPEN parameter (spec/10_state.md R35, D13). DESIGN CHOICE, log 4: the value the spec's own test
programs take (spec/95_test_vectors.md, part 3). -/
def resetW : Window := 0x0010#13

end Config
end Sys2Proof
end

