-- ==== Sys2Proof/Syntax.lean ====
section
/-! DEFINITION. The instructions of Boneless-III: one constructor per row of spec/opcode_table.json, in the table's
order. Operands are the encoded fields of spec/30_encoding.md R61 and R62, at their own widths; what an immediate field
stands for is decided when the instruction executes, because it depends on `has_ext13` (R69, R70). -/

namespace Sys2Proof

inductive Instr where
  /-- AND Rd, Ra, Rb (spec/41_logic.md R105). -/
  | and (rd ra rb : Reg)
  /-- OR Rd, Ra, Rb (R107). -/
  | or (rd ra rb : Reg)
  /-- XOR Rd, Ra, Rb (R109). -/
  | xor (rd ra rb : Reg)
  /-- CMP Ra, Rb (spec/40_arithmetic.md R101). -/
  | cmp (ra rb : Reg)
  /-- ANDI Rd, Ra, imm (R106). -/
  | andi (rd ra : Reg) (imm3 : BitVec 3)
  /-- ORI Rd, Ra, imm (R108). -/
  | ori (rd ra : Reg) (imm3 : BitVec 3)
  /-- XORI Rd, Ra, imm (R110). -/
  | xori (rd ra : Reg) (imm3 : BitVec 3)
  /-- CMPI Ra, imm (R102). -/
  | cmpi (ra : Reg) (imm3 : BitVec 3)
  /-- ADD Rd, Ra, Rb (R93). -/
  | add (rd ra rb : Reg)
  /-- ADC Rd, Ra, Rb (R95). -/
  | adc (rd ra rb : Reg)
  /-- SUB Rd, Ra, Rb (R97). -/
  | sub (rd ra rb : Reg)
  /-- SBB Rd, Ra, Rb (R99). -/
  | sbb (rd ra rb : Reg)
  /-- ADDI Rd, Ra, imm (R94). -/
  | addi (rd ra : Reg) (imm3 : BitVec 3)
  /-- ADCI Rd, Ra, imm (R96). -/
  | adci (rd ra : Reg) (imm3 : BitVec 3)
  /-- SUBI Rd, Ra, imm (R98). -/
  | subi (rd ra : Reg) (imm3 : BitVec 3)
  /-- SBBI Rd, Ra, imm (R100). -/
  | sbbi (rd ra : Reg) (imm3 : BitVec 3)
  /-- SLL Rd, Ra, Rb (spec/42_shift_rotate.md R115). -/
  | sll (rd ra rb : Reg)
  /-- ROT Rd, Ra, Rb (R121). -/
  | rot (rd ra rb : Reg)
  /-- SRL Rd, Ra, Rb (R117). -/
  | srl (rd ra rb : Reg)
  /-- SRA Rd, Ra, Rb (R119). -/
  | sra (rd ra rb : Reg)
  /-- SLLI Rd, Ra, amount (R116). -/
  | slli (rd ra : Reg) (imm3 : BitVec 3)
  /-- ROTI Rd, Ra, amount (R122). -/
  | roti (rd ra : Reg) (imm3 : BitVec 3)
  /-- SRLI Rd, Ra, amount (R118). -/
  | srli (rd ra : Reg) (imm3 : BitVec 3)
  /-- SRAI Rd, Ra, amount (R120). -/
  | srai (rd ra : Reg) (imm3 : BitVec 3)
  /-- ADJW.1: ADJW size (spec/43_window.md R125). -/
  | adjw1 (imm3 : BitVec 3)
  /-- ADJW.2: ADJW Rd, size (R126). -/
  | adjw2 (rd : Reg) (imm3 : BitVec 3)
  /-- LD Rd, Ra, off (spec/44_load_store.md R130). -/
  | ld (rd ra : Reg) (off5 : BitVec 5)
  /-- LDI Rd, Ra, off (R131). -/
  | ldi (rd ra : Reg) (off5 : BitVec 5)
  /-- ST Rs, Ra, off (R132). -/
  | st (rs ra : Reg) (off5 : BitVec 5)
  /-- STI Rs, Ra, off (R133). -/
  | sti (rs ra : Reg) (off5 : BitVec 5)
  /-- LDX Rd, Ra, off (R134). -/
  | ldx (rd ra : Reg) (off5 : BitVec 5)
  /-- LDXZ Rd, off (R135). -/
  | ldxz (rd : Reg) (off8 : BitVec 8)
  /-- STX Rs, Ra, off (R136). -/
  | stx (rs ra : Reg) (off5 : BitVec 5)
  /-- STXZ Rs, off (R137). -/
  | stxz (rs : Reg) (off8 : BitVec 8)
  /-- MOVA Rd, off (spec/45_move_exti.md R140). -/
  | mova (rd : Reg) (off8 : BitVec 8)
  /-- MOVI Rd, imm (R141). -/
  | movi (rd : Reg) (imm8 : BitVec 8)
  /-- JAL Rd, label (spec/46_jump.md R148). -/
  | jal (rd : Reg) (off8 : BitVec 8)
  /-- JR Ra (R149). -/
  | jr (ra : Reg)
  /-- JNZ label (R153). -/
  | jnz (off8 : BitVec 8)
  /-- JNE label (R154), the same words as JNZ. -/
  | jne (off8 : BitVec 8)
  /-- JNS label (R156). -/
  | jns (off8 : BitVec 8)
  /-- JNC label (R158). -/
  | jnc (off8 : BitVec 8)
  /-- JULT label (R164), the same words as JNC. -/
  | jult (off8 : BitVec 8)
  /-- JNO label (R160). -/
  | jno (off8 : BitVec 8)
  /-- JUGT label (R162). -/
  | jugt (off8 : BitVec 8)
  /-- JSGE label (R165). -/
  | jsge (off8 : BitVec 8)
  /-- JSGT label (R166). -/
  | jsgt (off8 : BitVec 8)
  /-- JN label (R150). -/
  | jn (off8 : BitVec 8)
  /-- JZ label (R151). -/
  | jz (off8 : BitVec 8)
  /-- JE label (R152), the same words as JZ. -/
  | je (off8 : BitVec 8)
  /-- JS label (R155). -/
  | js (off8 : BitVec 8)
  /-- JC label (R157). -/
  | jc (off8 : BitVec 8)
  /-- JUGE label (R161), the same words as JC. -/
  | juge (off8 : BitVec 8)
  /-- JO label (R159). -/
  | jo (off8 : BitVec 8)
  /-- JULE label (R163). -/
  | jule (off8 : BitVec 8)
  /-- JSLT label (R168). -/
  | jslt (off8 : BitVec 8)
  /-- JSLE label (R167). -/
  | jsle (off8 : BitVec 8)
  /-- J label (R147). -/
  | j (off8 : BitVec 8)
  /-- EXTI, the immediate prefix (spec/45_move_exti.md R142). -/
  | exti (imm13 : BitVec 13)
deriving DecidableEq, Repr

end Sys2Proof
end

