-- ==== Sys2Proof/WellFormed.lean ====
section
/-! DEFINITION. Which instructions have a word of their own, and which spelling the decoder answers. Register numbers and
immediates are in range by their types; the one check left is the overlap of spec/30_encoding.md R77. -/

namespace Sys2Proof

/-- An instruction that some word encodes. A jump whose `cond` has bit 11 set and whose `off8` is 0 has none: that word
is JR (R77 (a), C4, D10; spec/70_reset_and_hazards.md R229). -/
def Instr.wellFormed : Instr → Bool
  | .jz off8 | .je off8 | .js off8 | .jc off8 | .juge off8 | .jo off8 | .jule off8 | .jslt off8 | .jsle off8
  | .j off8 => off8 != 0#8
  | .and _ _ _ | .or _ _ _ | .xor _ _ _ | .cmp _ _ | .andi _ _ _ | .ori _ _ _ | .xori _ _ _ | .cmpi _ _
  | .add _ _ _ | .adc _ _ _ | .sub _ _ _ | .sbb _ _ _ | .addi _ _ _ | .adci _ _ _ | .subi _ _ _ | .sbbi _ _ _
  | .sll _ _ _ | .rot _ _ _ | .srl _ _ _ | .sra _ _ _ | .slli _ _ _ | .roti _ _ _ | .srli _ _ _ | .srai _ _ _
  | .adjw1 _ | .adjw2 _ _ | .ld _ _ _ | .ldi _ _ _ | .st _ _ _ | .sti _ _ _ | .ldx _ _ _ | .ldxz _ _
  | .stx _ _ _ | .stxz _ _ | .mova _ _ | .movi _ _ | .jal _ _ | .jr _
  | .jnz _ | .jne _ | .jns _ | .jnc _ | .jult _ | .jno _ | .jugt _ | .jsge _ | .jsgt _ | .jn _ | .exti _ => true

/-- The spelling the decoder answers: JNE, JULT, JE and JUGE have the words of JNZ, JNC, JZ and JC (R81; log 17). -/
def Instr.canonical : Instr → Instr
  | .jne off8 => .jnz off8
  | .jult off8 => .jnc off8
  | .je off8 => .jz off8
  | .juge off8 => .jc off8
  | .and rd ra rb => .and rd ra rb
  | .or rd ra rb => .or rd ra rb
  | .xor rd ra rb => .xor rd ra rb
  | .cmp ra rb => .cmp ra rb
  | .andi rd ra imm3 => .andi rd ra imm3
  | .ori rd ra imm3 => .ori rd ra imm3
  | .xori rd ra imm3 => .xori rd ra imm3
  | .cmpi ra imm3 => .cmpi ra imm3
  | .add rd ra rb => .add rd ra rb
  | .adc rd ra rb => .adc rd ra rb
  | .sub rd ra rb => .sub rd ra rb
  | .sbb rd ra rb => .sbb rd ra rb
  | .addi rd ra imm3 => .addi rd ra imm3
  | .adci rd ra imm3 => .adci rd ra imm3
  | .subi rd ra imm3 => .subi rd ra imm3
  | .sbbi rd ra imm3 => .sbbi rd ra imm3
  | .sll rd ra rb => .sll rd ra rb
  | .rot rd ra rb => .rot rd ra rb
  | .srl rd ra rb => .srl rd ra rb
  | .sra rd ra rb => .sra rd ra rb
  | .slli rd ra imm3 => .slli rd ra imm3
  | .roti rd ra imm3 => .roti rd ra imm3
  | .srli rd ra imm3 => .srli rd ra imm3
  | .srai rd ra imm3 => .srai rd ra imm3
  | .adjw1 imm3 => .adjw1 imm3
  | .adjw2 rd imm3 => .adjw2 rd imm3
  | .ld rd ra off5 => .ld rd ra off5
  | .ldi rd ra off5 => .ldi rd ra off5
  | .st rs ra off5 => .st rs ra off5
  | .sti rs ra off5 => .sti rs ra off5
  | .ldx rd ra off5 => .ldx rd ra off5
  | .ldxz rd off8 => .ldxz rd off8
  | .stx rs ra off5 => .stx rs ra off5
  | .stxz rs off8 => .stxz rs off8
  | .mova rd off8 => .mova rd off8
  | .movi rd imm8 => .movi rd imm8
  | .jal rd off8 => .jal rd off8
  | .jr ra => .jr ra
  | .jnz off8 => .jnz off8
  | .jns off8 => .jns off8
  | .jnc off8 => .jnc off8
  | .jno off8 => .jno off8
  | .jugt off8 => .jugt off8
  | .jsge off8 => .jsge off8
  | .jsgt off8 => .jsgt off8
  | .jn off8 => .jn off8
  | .jz off8 => .jz off8
  | .js off8 => .js off8
  | .jc off8 => .jc off8
  | .jo off8 => .jo off8
  | .jule off8 => .jule off8
  | .jslt off8 => .jslt off8
  | .jsle off8 => .jsle off8
  | .j off8 => .j off8
  | .exti imm13 => .exti imm13

end Sys2Proof
end

