-- ==== Sys2Proof/Decode.lean ====
section
/-! DEFINITION. The decoder and the encoder (spec/30_encoding.md R61 to R68, R75, R77; spec/opcode_table.json). The
decoder is total: it answers an instruction or the verdict "not listed", with the group of R75 the word falls in. -/

namespace Sys2Proof

/-- Why a word is not listed (spec/30_encoding.md R75). Executing such a word is UNPREDICTABLE; the step is refused,
which is safe. -/
inductive Reject where
  /-- `op5` = `00110`, `10011`, `10100`, `10101` or `11100` to `11111`. -/
  | unlistedOpcode
  /-- `00000` or `00001` with `type` = `11` and bits 10:8 not `000`. -/
  | compareWithRd
  /-- `00111` with a pattern other than the two ADJW ones. -/
  | windowPattern
deriving DecidableEq, Repr

/-! ## Fields (R61, R62) -/

/-- Bits 15:11, `op5`. -/
def fieldOp5 (w : Word) : BitVec 5 := w.extractLsb' 11 5
/-- Bits 10:8: `Rd`, `Rs`, the `Ra` of JR, or `000`. -/
def fieldRd (w : Word) : Reg := w.extractLsb' 8 3
/-- Bits 7:5: `Ra`, or the sub-opcode of ADJW. -/
def fieldRa (w : Word) : Reg := w.extractLsb' 5 3
/-- Bits 4:3, `type`. -/
def fieldType (w : Word) : BitVec 2 := w.extractLsb' 3 2
/-- Bits 2:0: `Rb` or `imm3`. -/
def fieldLow (w : Word) : BitVec 3 := w.extractLsb' 0 3
/-- Bits 4:0, `off5`. -/
def fieldOff5 (w : Word) : BitVec 5 := w.extractLsb' 0 5
/-- Bits 7:0, `off8` or `imm8`. -/
def fieldOff8 (w : Word) : BitVec 8 := w.extractLsb' 0 8
/-- Bits 11:8, `cond` (R68). -/
def fieldCond (w : Word) : BitVec 4 := w.extractLsb' 8 4
/-- Bits 12:0, `imm13`. -/
def fieldImm13 (w : Word) : BitVec 13 := w.extractLsb' 0 13

/-! ## Decoding, by major opcode (R64) -/

/-- `op5` = `00000`: AND, OR, XOR, CMP by `type` (R67). -/
def decodeLogic (w : Word) : Except Reject Instr :=
  match fieldType w with
  | 0b00#2 => .ok (.and (fieldRd w) (fieldRa w) (fieldLow w))
  | 0b01#2 => .ok (.or (fieldRd w) (fieldRa w) (fieldLow w))
  | 0b10#2 => .ok (.xor (fieldRd w) (fieldRa w) (fieldLow w))
  | _ => if fieldRd w = 0b000#3 then .ok (.cmp (fieldRa w) (fieldLow w)) else .error .compareWithRd

/-- `op5` = `00001`: ANDI, ORI, XORI, CMPI by `type` (R67). -/
def decodeLogicImm (w : Word) : Except Reject Instr :=
  match fieldType w with
  | 0b00#2 => .ok (.andi (fieldRd w) (fieldRa w) (fieldLow w))
  | 0b01#2 => .ok (.ori (fieldRd w) (fieldRa w) (fieldLow w))
  | 0b10#2 => .ok (.xori (fieldRd w) (fieldRa w) (fieldLow w))
  | _ => if fieldRd w = 0b000#3 then .ok (.cmpi (fieldRa w) (fieldLow w)) else .error .compareWithRd

/-- `op5` = `00010`: ADD, ADC, SUB, SBB by `type` (R67). -/
def decodeArith (w : Word) : Instr :=
  match fieldType w with
  | 0b00#2 => .add (fieldRd w) (fieldRa w) (fieldLow w)
  | 0b01#2 => .adc (fieldRd w) (fieldRa w) (fieldLow w)
  | 0b10#2 => .sub (fieldRd w) (fieldRa w) (fieldLow w)
  | _ => .sbb (fieldRd w) (fieldRa w) (fieldLow w)

/-- `op5` = `00011`: ADDI, ADCI, SUBI, SBBI by `type` (R67). -/
def decodeArithImm (w : Word) : Instr :=
  match fieldType w with
  | 0b00#2 => .addi (fieldRd w) (fieldRa w) (fieldLow w)
  | 0b01#2 => .adci (fieldRd w) (fieldRa w) (fieldLow w)
  | 0b10#2 => .subi (fieldRd w) (fieldRa w) (fieldLow w)
  | _ => .sbbi (fieldRd w) (fieldRa w) (fieldLow w)

/-- `op5` = `00100`: SLL, ROT, SRL, SRA by `type` (R67). -/
def decodeShift (w : Word) : Instr :=
  match fieldType w with
  | 0b00#2 => .sll (fieldRd w) (fieldRa w) (fieldLow w)
  | 0b01#2 => .rot (fieldRd w) (fieldRa w) (fieldLow w)
  | 0b10#2 => .srl (fieldRd w) (fieldRa w) (fieldLow w)
  | _ => .sra (fieldRd w) (fieldRa w) (fieldLow w)

/-- `op5` = `00101`: SLLI, ROTI, SRLI, SRAI by `type` (R67; SRAI stands here by C1, log 19). -/
def decodeShiftImm (w : Word) : Instr :=
  match fieldType w with
  | 0b00#2 => .slli (fieldRd w) (fieldRa w) (fieldLow w)
  | 0b01#2 => .roti (fieldRd w) (fieldRa w) (fieldLow w)
  | 0b10#2 => .srli (fieldRd w) (fieldRa w) (fieldLow w)
  | _ => .srai (fieldRd w) (fieldRa w) (fieldLow w)

/-- `op5` = `00111`: ADJW.1 (bits 10:5 `000000`) and ADJW.2 (bits 7:5 `001`), both with `type` = `11` (R67). -/
def decodeWindow (w : Word) : Except Reject Instr :=
  if fieldType w = 0b11#2 then
    if fieldRa w = 0b001#3 then .ok (.adjw2 (fieldRd w) (fieldLow w))
    else if fieldRa w = 0b000#3 ∧ fieldRd w = 0b000#3 then .ok (.adjw1 (fieldLow w))
    else .error .windowPattern
  else .error .windowPattern

/-- The J8 words, by `cond` (R68; JUGT and JULE stand at `0100` and `1100` by D11, log 18). -/
def decodeCond (cond : BitVec 4) (off8 : BitVec 8) : Instr :=
  match cond with
  | 0b0000#4 => .jnz off8
  | 0b0001#4 => .jns off8
  | 0b0010#4 => .jnc off8
  | 0b0011#4 => .jno off8
  | 0b0100#4 => .jugt off8
  | 0b0101#4 => .jsge off8
  | 0b0110#4 => .jsgt off8
  | 0b0111#4 => .jn off8
  | 0b1000#4 => .jz off8
  | 0b1001#4 => .js off8
  | 0b1010#4 => .jc off8
  | 0b1011#4 => .jo off8
  | 0b1100#4 => .jule off8
  | 0b1101#4 => .jslt off8
  | 0b1110#4 => .jsle off8
  | _ => .j off8

/-- `op5` = `10111`: JR when bits 7:0 are all zero, tested before the jumps with `cond` bit 11 set (R77, D10, log 16). -/
def decodeJumpOrJr (w : Word) : Instr :=
  if fieldOff8 w = 0#8 then .jr (fieldRd w) else decodeCond (fieldCond w) (fieldOff8 w)

/-- The decoder (R64, R75). Decoding does not depend on `has_ext13` (R60). -/
def decode (w : Word) : Except Reject Instr :=
  match fieldOp5 w with
  | 0b00000#5 => decodeLogic w
  | 0b00001#5 => decodeLogicImm w
  | 0b00010#5 => .ok (decodeArith w)
  | 0b00011#5 => .ok (decodeArithImm w)
  | 0b00100#5 => .ok (decodeShift w)
  | 0b00101#5 => .ok (decodeShiftImm w)
  | 0b00111#5 => decodeWindow w
  | 0b01000#5 => .ok (.ld (fieldRd w) (fieldRa w) (fieldOff5 w))
  | 0b01001#5 => .ok (.ldi (fieldRd w) (fieldRa w) (fieldOff5 w))
  | 0b01010#5 => .ok (.st (fieldRd w) (fieldRa w) (fieldOff5 w))
  | 0b01011#5 => .ok (.sti (fieldRd w) (fieldRa w) (fieldOff5 w))
  | 0b01100#5 => .ok (.ldx (fieldRd w) (fieldRa w) (fieldOff5 w))
  | 0b01101#5 => .ok (.ldxz (fieldRd w) (fieldOff8 w))
  | 0b01110#5 => .ok (.stx (fieldRd w) (fieldRa w) (fieldOff5 w))
  | 0b01111#5 => .ok (.stxz (fieldRd w) (fieldOff8 w))
  | 0b10000#5 => .ok (.mova (fieldRd w) (fieldOff8 w))
  | 0b10001#5 => .ok (.movi (fieldRd w) (fieldOff8 w))
  | 0b10010#5 => .ok (.jal (fieldRd w) (fieldOff8 w))
  | 0b10110#5 => .ok (decodeCond (fieldCond w) (fieldOff8 w))
  | 0b10111#5 => .ok (decodeJumpOrJr w)
  | 0b11000#5 => .ok (.exti (fieldImm13 w))
  | 0b11001#5 => .ok (.exti (fieldImm13 w))
  | 0b11010#5 => .ok (.exti (fieldImm13 w))
  | 0b11011#5 => .ok (.exti (fieldImm13 w))
  | _ => .error .unlistedOpcode

/-! ## Encoding, by format (R61) -/

/-- Formats R3, I3, C3, W1 and W2: `op5 Rd Ra type low`. -/
def wordR3 (op5 : BitVec 5) (rd ra : BitVec 3) (type : BitVec 2) (low : BitVec 3) : Word :=
  op5 ++ rd ++ ra ++ type ++ low

/-- Format M5: `op5 Rd Ra off5`. -/
def wordM5 (op5 : BitVec 5) (rd ra : BitVec 3) (off5 : BitVec 5) : Word := op5 ++ rd ++ ra ++ off5

/-- Formats I8 and JR: `op5 Rd off8`. -/
def wordI8 (op5 : BitVec 5) (rd : BitVec 3) (off8 : BitVec 8) : Word := op5 ++ rd ++ off8

/-- Format J8: `1011 cond off8`. -/
def wordJ8 (cond : BitVec 4) (off8 : BitVec 8) : Word := 0b1011#4 ++ cond ++ off8

/-- Format X13: `110 imm13`. -/
def wordX13 (imm13 : BitVec 13) : Word := 0b110#3 ++ imm13

/-- The word of an instruction. A jump with `cond` bit 11 set and `off8` = 0 has no word of its own
(`Instr.wellFormed`): what stands here for it is the JR word it coincides with. -/
def encode : Instr → Word
  | .and rd ra rb => wordR3 0b00000#5 rd ra 0b00#2 rb
  | .or rd ra rb => wordR3 0b00000#5 rd ra 0b01#2 rb
  | .xor rd ra rb => wordR3 0b00000#5 rd ra 0b10#2 rb
  | .cmp ra rb => wordR3 0b00000#5 0b000#3 ra 0b11#2 rb
  | .andi rd ra imm3 => wordR3 0b00001#5 rd ra 0b00#2 imm3
  | .ori rd ra imm3 => wordR3 0b00001#5 rd ra 0b01#2 imm3
  | .xori rd ra imm3 => wordR3 0b00001#5 rd ra 0b10#2 imm3
  | .cmpi ra imm3 => wordR3 0b00001#5 0b000#3 ra 0b11#2 imm3
  | .add rd ra rb => wordR3 0b00010#5 rd ra 0b00#2 rb
  | .adc rd ra rb => wordR3 0b00010#5 rd ra 0b01#2 rb
  | .sub rd ra rb => wordR3 0b00010#5 rd ra 0b10#2 rb
  | .sbb rd ra rb => wordR3 0b00010#5 rd ra 0b11#2 rb
  | .addi rd ra imm3 => wordR3 0b00011#5 rd ra 0b00#2 imm3
  | .adci rd ra imm3 => wordR3 0b00011#5 rd ra 0b01#2 imm3
  | .subi rd ra imm3 => wordR3 0b00011#5 rd ra 0b10#2 imm3
  | .sbbi rd ra imm3 => wordR3 0b00011#5 rd ra 0b11#2 imm3
  | .sll rd ra rb => wordR3 0b00100#5 rd ra 0b00#2 rb
  | .rot rd ra rb => wordR3 0b00100#5 rd ra 0b01#2 rb
  | .srl rd ra rb => wordR3 0b00100#5 rd ra 0b10#2 rb
  | .sra rd ra rb => wordR3 0b00100#5 rd ra 0b11#2 rb
  | .slli rd ra imm3 => wordR3 0b00101#5 rd ra 0b00#2 imm3
  | .roti rd ra imm3 => wordR3 0b00101#5 rd ra 0b01#2 imm3
  | .srli rd ra imm3 => wordR3 0b00101#5 rd ra 0b10#2 imm3
  | .srai rd ra imm3 => wordR3 0b00101#5 rd ra 0b11#2 imm3
  | .adjw1 imm3 => wordR3 0b00111#5 0b000#3 0b000#3 0b11#2 imm3
  | .adjw2 rd imm3 => wordR3 0b00111#5 rd 0b001#3 0b11#2 imm3
  | .ld rd ra off5 => wordM5 0b01000#5 rd ra off5
  | .ldi rd ra off5 => wordM5 0b01001#5 rd ra off5
  | .st rs ra off5 => wordM5 0b01010#5 rs ra off5
  | .sti rs ra off5 => wordM5 0b01011#5 rs ra off5
  | .ldx rd ra off5 => wordM5 0b01100#5 rd ra off5
  | .ldxz rd off8 => wordI8 0b01101#5 rd off8
  | .stx rs ra off5 => wordM5 0b01110#5 rs ra off5
  | .stxz rs off8 => wordI8 0b01111#5 rs off8
  | .mova rd off8 => wordI8 0b10000#5 rd off8
  | .movi rd imm8 => wordI8 0b10001#5 rd imm8
  | .jal rd off8 => wordI8 0b10010#5 rd off8
  | .jr ra => wordI8 0b10111#5 ra 0#8
  | .jnz off8 => wordJ8 0b0000#4 off8
  | .jne off8 => wordJ8 0b0000#4 off8
  | .jns off8 => wordJ8 0b0001#4 off8
  | .jnc off8 => wordJ8 0b0010#4 off8
  | .jult off8 => wordJ8 0b0010#4 off8
  | .jno off8 => wordJ8 0b0011#4 off8
  | .jugt off8 => wordJ8 0b0100#4 off8
  | .jsge off8 => wordJ8 0b0101#4 off8
  | .jsgt off8 => wordJ8 0b0110#4 off8
  | .jn off8 => wordJ8 0b0111#4 off8
  | .jz off8 => wordJ8 0b1000#4 off8
  | .je off8 => wordJ8 0b1000#4 off8
  | .js off8 => wordJ8 0b1001#4 off8
  | .jc off8 => wordJ8 0b1010#4 off8
  | .juge off8 => wordJ8 0b1010#4 off8
  | .jo off8 => wordJ8 0b1011#4 off8
  | .jule off8 => wordJ8 0b1100#4 off8
  | .jslt off8 => wordJ8 0b1101#4 off8
  | .jsle off8 => wordJ8 0b1110#4 off8
  | .j off8 => wordJ8 0b1111#4 off8
  | .exti imm13 => wordX13 imm13

/-! ## The host's view of the table -/

/-- The low `nbits` bits of `w` as the instruction word; a word has no bits above 15 (R60). -/
def tableWord (nbits w : Nat) : Word := BitVec.ofNat 16 (w % 2 ^ nbits)

/-- What the decoder reads from an instruction whose bits are `w`, numbered as spec/opcode_table.json numbers them. -/
def decodeTableWord (nbits w : Nat) : Option Instr :=
  match decode (tableWord nbits w) with
  | .ok i => some i
  | .error _ => none

end Sys2Proof
end

