-- ==== Sys2Proof/Machine/State.lean ====
section
/-! DEFINITION. The state of the machine (spec/10_state.md R20), what stops a step, and the machine after reset (R34). -/

namespace Sys2Proof.Machine

/-- Main memory: the bytes written since reset (or placed before it), by byte address, addresses strictly rising. Word
`a` of `mem` is the cells `2 * a` (bits 7:0) and `2 * a + 1` (bits 15:8). The order of the two is not observable
(spec/20_memory.md R45): DESIGN CHOICE, log 2. -/
abbrev Memory := List Host.Cell

/-- The four flags (spec/10_state.md R28). -/
structure Flags where
  z : Bool
  s : Bool
  c : Bool
  v : Bool
deriving DecidableEq, Repr

/-- The addresses `first` to `last`, both included. -/
structure Region where
  first : Word
  last : Word
deriving DecidableEq, Repr

/-- What stops the machine with a fault: nothing. The hardware has no exceptions, traps or faults (spec/60_exceptions.md
R200, R201; D21, log 15), so this type has no constructor. -/
inductive Fault where
deriving DecidableEq, Repr

/-- What the spec calls `raise Unpredictable(reason)`: the step has no meaning, and nothing may be proved of the run from
there on (spec/00_scope.md R10, D19, log 15). Each is safe: the model stops where the hardware does something unsaid. -/
inductive Refusal where
  /-- Raised by `exec` alone, for an instruction that has no meaning yet. Safe. -/
  | notModelled (mnemonic : String)
  /-- Raised by the fetch of a word that is not listed (spec/30_encoding.md R75). Safe. -/
  | encodingNotListed (why : Reject)
  /-- Raised by a long form whose field has a non-zero bit above bit 2 (R71). Safe. -/
  | longFormUpperBits
  /-- Raised by SLL, SRL, SRA and ROT when the amount register is above 15 (spec/42_shift_rotate.md R112). Safe. -/
  | shiftAmountAbove15
  /-- Raised by JR when `has_ext13` is 1 (spec/30_encoding.md R77, D10, log 16). Safe. -/
  | jrAfterExti
  /-- Raised by every access to a word where `mem_present` is false (spec/20_memory.md R49, D16, log 7). Safe. -/
  | absentMemory (addr : Word)
deriving DecidableEq, Repr

/-- The machine state. `mem` to `hasExt13` are the state of spec/10_state.md R20; `absent` is the parameter `mem_present`
held as data; `busIn`, `busLog` and `draws` are the model's own (logs 8 and 9). -/
structure State where
  /-- Main memory (R20, spec/20_memory.md R40); the registers are words of it (R21). -/
  mem : Memory
  /-- The window register `W` (R24). -/
  w : Window
  /-- The program counter, a word address (R25). -/
  pc : Word
  /-- `Z`, `S`, `C`, `V` (R28). -/
  flags : Flags
  /-- The pending immediate extension (R30). -/
  ext13 : BitVec 13
  /-- Whether `ext13` is pending (R30, R31). -/
  hasExt13 : Bool
  /-- The words of `mem` that do not exist: `mem_present` is false exactly in these regions (spec/20_memory.md R49). -/
  absent : List Region
  /-- The platform's answers to the next bus reads, first one first (spec/20_memory.md R44). -/
  busIn : List Word
  /-- Every bus access so far, first one first (spec/20_memory.md R44, spec/70_reset_and_hazards.md R230). -/
  busLog : List BusEvent
  /-- How many one-bit draws `undef()` has made (spec/00_scope.md R11). -/
  draws : Nat
deriving DecidableEq, Repr

/-- The outcome of a step: the next state, or a refusal. -/
abbrev Result := Host.Outcome State Fault Refusal

namespace State

/-- The state with another memory. -/
def setMem (s : State) (m : Memory) : State := { s with mem := m }
/-- The state with another window. -/
def setW (s : State) (w : Window) : State := { s with w := w }
/-- The state with another program counter. -/
def setPc (s : State) (pc : Word) : State := { s with pc := pc }
/-- The state with other flags. -/
def setFlags (s : State) (f : Flags) : State := { s with flags := f }
/-- The state with another pending extension. -/
def setExt13 (s : State) (e : BitVec 13) : State := { s with ext13 := e }
/-- The state with another extension marker. -/
def setHasExt13 (s : State) (b : Bool) : State := { s with hasExt13 := b }
/-- The state with other absent regions. -/
def setAbsent (s : State) (rs : List Region) : State := { s with absent := rs }
/-- The state with other pending bus answers. -/
def setBusIn (s : State) (ws : List Word) : State := { s with busIn := ws }
/-- The state with another bus history. -/
def setBusLog (s : State) (es : List BusEvent) : State := { s with busLog := es }
/-- The state with another draw counter. -/
def setDraws (s : State) (n : Nat) : State := { s with draws := n }

/-- The machine after reset (spec/10_state.md R34, spec/70_reset_and_hazards.md R220). `has_ext13 = 0` is the spec's
(D15). `PC` and `W` are the parameters `reset_pc` and `reset_w` (logs 3 and 4). The flags and `ext13`, which the spec
leaves unspecified, are 0: DESIGN CHOICE, logs 5 and 6. Memory lists nothing, so every word reads as `Config.memInit`
(log 1); no word is absent (log 7); no bus answer is given and none was asked for (log 8); no draw was made (log 9). -/
def reset : State where
  mem := []
  w := Config.resetW
  pc := Config.resetPc
  flags := { z := false, s := false, c := false, v := false }
  ext13 := 0#13
  hasExt13 := false
  absent := []
  busIn := []
  busLog := []
  draws := 0

end State
end Sys2Proof.Machine
end

