-- ==== Sys2Proof/Machine/Ops.lean ====
section
/-! DEFINITION. The named operations over memory, registers, the window, the bus and the program counter
(spec/00_scope.md R8, spec/10_state.md R21 to R27, spec/20_memory.md R40 to R44, R49). There is no operation for taking
an exception or returning from one: the hardware has neither (spec/60_exceptions.md R200, R204, R205). -/

namespace Sys2Proof.Machine

/-- Go on with the value, or refuse the whole step (spec/60_exceptions.md R204: an instruction completes as its rule says
or is refused as a whole). -/
def attempt {α : Type} (x : Except Refusal α) (k : α → Result) : Result :=
  match x with
  | .ok a => k a
  | .error r => .refused r

/-! ## Memory as cells -/

/-- How many cells the 2^16 words take: two each. -/
def memoryCells : Nat := 131072

/-- The canonical form: addresses strictly rising, each a cell of one of the 2^16 words. An unlisted cell holds no stored
value (`Memory.stored` answers `none`), so no entry says what an unlisted address says. -/
abbrev Memory.wf (m : Memory) : Prop := m.Pairwise (fun x y => x.1 < y.1) ∧ ∀ x ∈ m, x.1 < memoryCells

/-- The byte stored at a cell, `none` where nothing was stored since reset. -/
def Memory.stored : Memory → Nat → Option Byte
  | [], _ => none
  | (k, b) :: m, a => if a = k then some b else Memory.stored m a

/-- Store one byte, keeping the addresses strictly rising. -/
def Memory.put : Memory → Nat → Byte → Memory
  | [], a, v => [(a, v)]
  | (k, b) :: m, a, v =>
    if a < k then (a, v) :: (k, b) :: m
    else if a = k then (a, v) :: m
    else (k, b) :: Memory.put m a v

/-- What an unlisted cell reads as: its half of the free value `Config.memInit` of its word (spec/20_memory.md R40; log 1). -/
def initByte (k : Nat) : Byte :=
  if k % 2 = 0 then (Config.memInit (BitVec.ofNat 16 (k / 2))).extractLsb' 0 8
  else (Config.memInit (BitVec.ofNat 16 (k / 2))).extractLsb' 8 8

/-- The byte a cell reads as. -/
def readByte (m : Memory) (k : Nat) : Byte := (Memory.stored m k).getD (initByte k)

/-- The cell with bits 7:0 of word `a` (log 2). -/
def lowCell (a : Word) : Nat := 2 * a.toNat

/-- The cell with bits 15:8 of word `a` (log 2). -/
def highCell (a : Word) : Nat := 2 * a.toNat + 1

/-- The word `mem[a]`, present or not. -/
def memWord (m : Memory) (a : Word) : Word := readByte m (highCell a) ++ readByte m (lowCell a)

/-- `mem` with the word `v` at `a`. -/
def putWord (m : Memory) (a v : Word) : Memory :=
  Memory.put (Memory.put m (lowCell a) (v.extractLsb' 0 8)) (highCell a) (v.extractLsb' 8 8)

/-! ## Main memory (R40, R41, R49) -/

/-- The address lies in the region. -/
def Region.holds (r : Region) (a : Word) : Bool := r.first ≤ a && a ≤ r.last

/-- The parameter `mem_present` (spec/20_memory.md R49): the word exists. -/
def memPresent (s : State) (a : Word) : Bool := !s.absent.any (fun r => r.holds a)

/-- `MemRead(a, 1)` (R40); refused where the word is absent (R49). -/
def memRead (s : State) (a : Word) : Except Refusal Word :=
  if memPresent s a then .ok (memWord s.mem a) else .error (.absentMemory a)

/-- `MemWrite(a, 1, v)` (R41); refused where the word is absent (R49). -/
def memWrite (s : State) (a v : Word) : Except Refusal State :=
  if memPresent s a then .ok (s.setMem (putWord s.mem a v)) else .error (.absentMemory a)

/-! ## Registers and the window (spec/10_state.md R21, R24; spec/43_window.md R124) -/

/-- The address of register `i`: `W ++ i`, that is `(W << 3) + i` (R21). -/
def regAddr (w : Window) (i : Reg) : Word := w ++ i

/-- `x[i]` (R21). -/
def readReg (s : State) (i : Reg) : Except Refusal Word := memRead s (regAddr s.w i)

/-- `x[i] <- v` (R21). -/
def writeReg (s : State) (i : Reg) (v : Word) : Except Refusal State := memWrite s (regAddr s.w i) v

/-- `window_add(W, imm)`: the low 13 bits of `imm` take part and the sum wraps inside 13 bits (R124; D7, D25, log 13). -/
def windowAdd (w : Window) (imm : Word) : Window := w + imm.extractLsb' 0 13

/-- The address of register 0 of a window, `W ++ 000`, what ADJW.2 stores (spec/43_window.md R126). -/
def windowBase (w : Window) : Word := w ++ 0b000#3

/-! ## The external bus (spec/20_memory.md R44) -/

/-- The word the platform answers to the next read at `a`: the next of State's answers, or the free value (log 8). -/
def busAnswer (s : State) (a : Word) : Word :=
  match s.busIn with
  | v :: _ => v
  | [] => Config.extRead s.busLog a

/-- `ExtRead(a)`: the state after one bus read, with the access recorded and the answer used up. -/
def extRead (s : State) (a : Word) : State :=
  (s.setBusIn s.busIn.tail).setBusLog (s.busLog ++ [.read a (busAnswer s a)])

/-- `ExtWrite(a, v)`: the state after one bus write, with the access recorded. -/
def extWrite (s : State) (a v : Word) : State := s.setBusLog (s.busLog ++ [.write a v])

/-! ## How an instruction ends (spec/10_state.md R26, R31) -/

/-- The end of every instruction but EXTI, with the next program counter: `has_ext13 <- 0` (R31; D3, log 12). -/
def jumpTo (s : State) (target : Word) : State := (s.setPc target).setHasExt13 false

/-- The end of an instruction whose rule has no `pc <-` line: `pc <- pc + 1` mod 2^16 (R26, R27; D8, D5, log 14). -/
def retire (s : State) : State := jumpTo s (s.pc + 1#16)

/-! ## Fetch (spec/20_memory.md R42, R54) -/

/-- The decoder's verdict on a fetched word; a word that is not listed refuses the step (spec/30_encoding.md R75). -/
def decodeFetched (w : Word) : Except Refusal Instr :=
  match decode w with
  | .ok i => .ok i
  | .error r => .error (.encodingNotListed r)

/-- `insn <- MemRead(pc, 1)` and go on with the instruction it decodes to (R42; D8, log 14). -/
def fetchThen (s : State) (k : Instr → Result) : Result :=
  attempt (memRead s s.pc) fun insn => attempt (decodeFetched insn) k

/-- The region less one address: itself, or what lies below and above. -/
def Region.without (r : Region) (a : Word) : List Region :=
  if r.holds a then
    (if r.first = a then [] else [{ first := r.first, last := a - 1#16 }]) ++
      (if r.last = a then [] else [{ first := a + 1#16, last := r.last }])
  else [r]

/-- Put a word where the next fetch reads. Where the platform has no word at `pc`, it has one now: a word that does not
exist cannot be fetched (log 21). -/
def placeAtPc (s : State) (w : Word) : State :=
  (s.setMem (putWord s.mem s.pc w)).setAbsent (s.absent.flatMap fun r => r.without s.pc)

end Sys2Proof.Machine
end

