-- ==== Sys2Proof/Machine/Operands.lean ====
section
/-! DEFINITION. The operand forms (spec/30_encoding.md R69 to R74): every immediate and offset, short form and long. -/

namespace Sys2Proof.Machine

/-- `sext_3`, as a 16-bit pattern (spec/00_scope.md R7). -/
def sext3 (v : BitVec 3) : Word := v.signExtend 16
/-- `sext_5`, as a 16-bit pattern (R7). -/
def sext5 (v : BitVec 5) : Word := v.signExtend 16
/-- `sext_8`, as a 16-bit pattern (R7). -/
def sext8 (v : BitVec 8) : Word := v.signExtend 16

/-- `imm16(f) = ext13 ++ f[2:0]` (R70). -/
def longImm (s : State) (low : BitVec 3) : Word := s.ext13 ++ low

/-- The second operand of the ALU immediates (spec/40_arithmetic.md R92, spec/41_logic.md R106). -/
def aluImm (s : State) (imm3 : BitVec 3) : Word :=
  if s.hasExt13 then longImm s imm3 else Config.decodeImmediate imm3

/-- The immediate of ADJW.1 and ADJW.2 (R74). -/
def windowImm (s : State) (imm3 : BitVec 3) : Word :=
  if s.hasExt13 then longImm s imm3 else sext3 imm3

/-- `off_m5`, the offset of LD, LDI, LDX, ST, STI, STX (spec/44_load_store.md R128; the field is `off5` by C6, log 19). -/
def offM5 (s : State) (off5 : BitVec 5) : Except Refusal Word :=
  if s.hasExt13 then
    if off5.extractLsb' 3 2 = 0#2 then .ok (longImm s (off5.extractLsb' 0 3)) else .error .longFormUpperBits
  else .ok (sext5 off5)

/-- `off_i8`, the offset or immediate of LDXZ, STXZ, MOVA, MOVI, JAL and the jumps (spec/44_load_store.md R128,
spec/45_move_exti.md R141, spec/46_jump.md R145; MOVI's field by C15, log 19). -/
def offI8 (s : State) (off8 : BitVec 8) : Except Refusal Word :=
  if s.hasExt13 then
    if off8.extractLsb' 3 5 = 0#5 then .ok (longImm s (off8.extractLsb' 0 3)) else .error .longFormUpperBits
  else .ok (sext8 off8)

/-- The amount of the immediate shifts, `imm3 + 1` (spec/42_shift_rotate.md R113). -/
def shiftAmountImm (imm3 : BitVec 3) : Nat := imm3.toNat + 1

/-- The amount of the register shifts: the whole register, refused above 15 (spec/42_shift_rotate.md R112). -/
def shiftAmountReg (v : Word) : Except Refusal Nat :=
  if v.toNat ≤ 15 then .ok v.toNat else .error .shiftAmountAbove15

/-- The target of a J8 jump and of JAL: `pc + 1 + off` mod 2^16 (spec/46_jump.md R145). -/
def jumpTarget (s : State) (off : Word) : Word := s.pc + 1#16 + off

/-- The address of LD, ST, LDX, STX: `x[Ra] + off` mod 2^16 (spec/44_load_store.md R130; D6, log 13). -/
def baseAddr (base off : Word) : Word := base + off

/-- The address of LDI and STI: `pc + x[Ra] + off` mod 2^16, from the instruction's own word (R131, R133, N17). -/
def indexedAddr (s : State) (index off : Word) : Word := s.pc + index + off

end Sys2Proof.Machine
end

