-- ==== Sys2Proof/Machine/Flags.lean ====
section
/-! DEFINITION. The results and flags of the arithmetic and logic unit (spec/40_arithmetic.md R90, R91; spec/41_logic.md
R104; spec/42_shift_rotate.md R114) and the conditions of the jumps (spec/46_jump.md R146). -/

namespace Sys2Proof.Machine

/-- A carry or borrow as a 17-bit number. -/
def bit17 (b : Bool) : BitVec 17 := if b then 1#17 else 0#17

/-- `add_flags(opA, opB, cin)`: the word and the flags (R90). `Z` is taken from the low 16 bits (D2, log 11). -/
def addFlags (opA opB : Word) (cin : Bool) : Word × Flags :=
  let res : BitVec 17 := opA.zeroExtend 17 + opB.zeroExtend 17 + bit17 cin
  let low : Word := res.extractLsb' 0 16
  (low, { z := low == 0#16
          s := res.getLsbD 15
          c := res.getLsbD 16
          v := opA.getLsbD 15 == opB.getLsbD 15 && opA.getLsbD 15 != res.getLsbD 15 })

/-- `sub_flags(opA, opB, bin)`: the word and the flags (R91). `C` = 1 says no borrow; the last operator of `V` is `<>`
(C12, log 19); `Z` is taken from the low 16 bits (D2, log 11). -/
def subFlags (opA opB : Word) (bin : Bool) : Word × Flags :=
  let res : BitVec 17 := opA.zeroExtend 17 - opB.zeroExtend 17 - bit17 bin
  let low : Word := res.extractLsb' 0 16
  (low, { z := low == 0#16
          s := res.getLsbD 15
          c := !res.getLsbD 16
          v := opA.getLsbD 15 == !opB.getLsbD 15 && opA.getLsbD 15 != res.getLsbD 15 })

/-- `logic_flags(res)` (R104): `Z` and `S` from the result, `C` and `V` two fresh draws of `undef()` (R11, D20, log 9). -/
def logicFlags (s : State) (res : Word) : State :=
  (s.setFlags { z := res == 0#16
                s := res.getLsbD 15
                c := Config.undefBit s.draws
                v := Config.undefBit (s.draws + 1) }).setDraws (s.draws + 2)

/-! ## Shifts and the rotate, for an amount of 0 to 15 (R114; the right shifts by C5, log 19) -/

/-- `shl(opA, n) = (opA * 2^n) mod 2^16`. -/
def shl (opA : Word) (n : Nat) : Word := opA <<< n
/-- `shr(opA, n) = floor(opA / 2^n)`. -/
def shr (opA : Word) (n : Nat) : Word := opA >>> n
/-- `sar(opA, n) = floor(signed(opA) / 2^n) mod 2^16`. -/
def sar (opA : Word) (n : Nat) : Word := opA.sshiftRight n
/-- `rol(opA, n) = opA[15-n:0] ++ opA[15:16-n]`: the bits that leave at the top come in at the bottom. -/
def rol (opA : Word) (n : Nat) : Word := (opA <<< n) ||| (opA >>> (16 - n))

/-! ## Conditions (R146, spec/30_encoding.md R68) -/

/-- The test that `cond[2:0]` selects. -/
def condTest (sel : BitVec 3) (f : Flags) : Bool :=
  match sel with
  | 0b000#3 => f.z
  | 0b001#3 => f.s
  | 0b010#3 => f.c
  | 0b011#3 => f.v
  | 0b100#3 => !f.c || f.z
  | 0b101#3 => f.s ^^ f.v
  | 0b110#3 => (f.s ^^ f.v) || f.z
  | _ => true

/-- `holds(cond)`: the test has the value `cond[3]` (D11 for `0100` and `1100`, log 18). -/
def condHolds (cond : BitVec 4) (f : Flags) : Bool := condTest (cond.extractLsb' 0 3) f == cond.getLsbD 3

/-! ## The ends that the instruction families share -/

/-- `opA <- x[Ra]; opB <- x[Rb]`: both are read before anything is written (spec/10_state.md R22). -/
def withOperands (s : State) (ra rb : Reg) (k : Word → Word → Result) : Result :=
  attempt (readReg s ra) fun opA => attempt (readReg s rb) fun opB => k opA opB

/-- `x[Rd] <-` the word, then the flags (R93 to R100). -/
def finishArith (s : State) (rd : Reg) (r : Word × Flags) : Result :=
  attempt (writeReg s rd r.1) fun s => .next (retire (s.setFlags r.2))

/-- The flags alone: CMP and CMPI discard the word (R101, R102). -/
def finishCompare (s : State) (r : Word × Flags) : Result := .next (retire (s.setFlags r.2))

/-- `x[Rd] <- res; logic_flags(res)` (R105 to R110, R115 to R122). -/
def finishLogic (s : State) (rd : Reg) (res : Word) : Result :=
  attempt (writeReg s rd res) fun s => .next (retire (logicFlags s res))

/-- A register shift or rotate: `opA <- x[Ra]; n <- x[Rb]`, refused above 15 (R112, R115, R117, R119, R121). -/
def shiftByReg (f : Word → Nat → Word) (rd ra rb : Reg) (s : State) : Result :=
  withOperands s ra rb fun opA amount =>
    attempt (shiftAmountReg amount) fun n => finishLogic s rd (f opA n)

/-- An immediate shift or rotate: `opA <- x[Ra]; n <- imm3 + 1` (R113, R116, R118, R120, R122). -/
def shiftByImm (f : Word → Nat → Word) (rd ra : Reg) (imm3 : BitVec 3) (s : State) : Result :=
  attempt (readReg s ra) fun opA => finishLogic s rd (f opA (shiftAmountImm imm3))

/-- Every J8 instruction: the offset and its check first, then the condition (R145, R146). -/
def jumpIf (cond : BitVec 4) (off8 : BitVec 8) (s : State) : Result :=
  attempt (offI8 s off8) fun off =>
    .next (if condHolds cond s.flags then jumpTo s (jumpTarget s off) else retire s)

end Sys2Proof.Machine
end

