-- ==== Sys2Proof/Machine/Arith.lean ====
section
/-! DEFINITION. Arithmetic and compare instructions (spec/40_arithmetic.md R93 to R102). -/

namespace Sys2Proof.Machine

/-- ADD (R93). -/
def execAdd (rd ra rb : Reg) (s : State) : Result :=
  withOperands s ra rb fun opA opB => finishArith s rd (addFlags opA opB false)

/-- ADC (R95): `C` as it was before the instruction is the carry in. -/
def execAdc (rd ra rb : Reg) (s : State) : Result :=
  withOperands s ra rb fun opA opB => finishArith s rd (addFlags opA opB s.flags.c)

/-- SUB (R97). -/
def execSub (rd ra rb : Reg) (s : State) : Result :=
  withOperands s ra rb fun opA opB => finishArith s rd (subFlags opA opB false)

/-- SBB (R99): the borrow in is the complement of `C`. -/
def execSbb (rd ra rb : Reg) (s : State) : Result :=
  withOperands s ra rb fun opA opB => finishArith s rd (subFlags opA opB (!s.flags.c))

/-- ADDI (R94). -/
def execAddi (rd ra : Reg) (imm3 : BitVec 3) (s : State) : Result :=
  attempt (readReg s ra) fun opA => finishArith s rd (addFlags opA (aluImm s imm3) false)

/-- ADCI (R96). -/
def execAdci (rd ra : Reg) (imm3 : BitVec 3) (s : State) : Result :=
  attempt (readReg s ra) fun opA => finishArith s rd (addFlags opA (aluImm s imm3) s.flags.c)

/-- SUBI (R98). -/
def execSubi (rd ra : Reg) (imm3 : BitVec 3) (s : State) : Result :=
  attempt (readReg s ra) fun opA => finishArith s rd (subFlags opA (aluImm s imm3) false)

/-- SBBI (R100). -/
def execSbbi (rd ra : Reg) (imm3 : BitVec 3) (s : State) : Result :=
  attempt (readReg s ra) fun opA => finishArith s rd (subFlags opA (aluImm s imm3) (!s.flags.c))

/-- CMP (R101): the flags of SUB, and nothing else. -/
def execCmp (ra rb : Reg) (s : State) : Result :=
  withOperands s ra rb fun opA opB => finishCompare s (subFlags opA opB false)

/-- CMPI (R102): the flags of SUBI, and nothing else. -/
def execCmpi (ra : Reg) (imm3 : BitVec 3) (s : State) : Result :=
  attempt (readReg s ra) fun opA => finishCompare s (subFlags opA (aluImm s imm3) false)

end Sys2Proof.Machine
end

