-- ==== Sys2Proof/Machine/Jump.lean ====
section
/-! DEFINITION. Jumps (spec/46_jump.md R147 to R168). The `cond` of each J8 instruction is the table of
spec/30_encoding.md R68. -/

namespace Sys2Proof.Machine

/-- JAL (R148): the link is written through the current window before control moves. -/
def execJal (rd : Reg) (off8 : BitVec 8) (s : State) : Result :=
  attempt (offI8 s off8) fun off =>
    attempt (writeReg s rd (s.pc + 1#16)) fun t => .next (jumpTo t (jumpTarget s off))

/-- JR (R149). After an EXTI the word is also a long-form jump, and the step is refused (spec/30_encoding.md R77, D10,
log 16). -/
def execJr (ra : Reg) (s : State) : Result :=
  attempt (if s.hasExt13 then .error .jrAfterExti else readReg s ra) fun addr => .next (jumpTo s addr)

/-- JNZ (R153). -/
def execJnz (off8 : BitVec 8) (s : State) : Result := jumpIf 0b0000#4 off8 s

/-- JNE (R154). -/
def execJne (off8 : BitVec 8) (s : State) : Result := jumpIf 0b0000#4 off8 s

/-- JNS (R156). -/
def execJns (off8 : BitVec 8) (s : State) : Result := jumpIf 0b0001#4 off8 s

/-- JNC (R158). -/
def execJnc (off8 : BitVec 8) (s : State) : Result := jumpIf 0b0010#4 off8 s

/-- JULT (R164). -/
def execJult (off8 : BitVec 8) (s : State) : Result := jumpIf 0b0010#4 off8 s

/-- JNO (R160). -/
def execJno (off8 : BitVec 8) (s : State) : Result := jumpIf 0b0011#4 off8 s

/-- JUGT (R162) (`cond` by D11 and the test by C3, log 18). -/
def execJugt (off8 : BitVec 8) (s : State) : Result := jumpIf 0b0100#4 off8 s

/-- JSGE (R165). -/
def execJsge (off8 : BitVec 8) (s : State) : Result := jumpIf 0b0101#4 off8 s

/-- JSGT (R166). -/
def execJsgt (off8 : BitVec 8) (s : State) : Result := jumpIf 0b0110#4 off8 s

/-- JN (R150): never taken, but the long-form restriction holds (N18, log 19). -/
def execJn (off8 : BitVec 8) (s : State) : Result := jumpIf 0b0111#4 off8 s

/-- JZ (R151). -/
def execJz (off8 : BitVec 8) (s : State) : Result := jumpIf 0b1000#4 off8 s

/-- JE (R152). -/
def execJe (off8 : BitVec 8) (s : State) : Result := jumpIf 0b1000#4 off8 s

/-- JS (R155). -/
def execJs (off8 : BitVec 8) (s : State) : Result := jumpIf 0b1001#4 off8 s

/-- JC (R157). -/
def execJc (off8 : BitVec 8) (s : State) : Result := jumpIf 0b1010#4 off8 s

/-- JUGE (R161). -/
def execJuge (off8 : BitVec 8) (s : State) : Result := jumpIf 0b1010#4 off8 s

/-- JO (R159). -/
def execJo (off8 : BitVec 8) (s : State) : Result := jumpIf 0b1011#4 off8 s

/-- JULE (R163) (`cond` by D11 and the test by C3, log 18). -/
def execJule (off8 : BitVec 8) (s : State) : Result := jumpIf 0b1100#4 off8 s

/-- JSLT (R168). -/
def execJslt (off8 : BitVec 8) (s : State) : Result := jumpIf 0b1101#4 off8 s

/-- JSLE (R167). -/
def execJsle (off8 : BitVec 8) (s : State) : Result := jumpIf 0b1110#4 off8 s

/-- J (R147). -/
def execJ (off8 : BitVec 8) (s : State) : Result := jumpIf 0b1111#4 off8 s

end Sys2Proof.Machine
end

