-- ==== Sys2Proof/Machine/LoadStore.lean ====
section
/-! DEFINITION. Loads and stores, of main memory and of the external bus (spec/44_load_store.md R130 to R137). -/

namespace Sys2Proof.Machine

/-- `x[Rd] <- v`, and no flag (R129). -/
def finishLoad (s : State) (rd : Reg) (v : Word) : Result :=
  attempt (writeReg s rd v) fun s => .next (retire s)

/-- `MemWrite(addr, 1, v)`, and no flag (R129). -/
def finishStore (s : State) (addr v : Word) : Result :=
  attempt (memWrite s addr v) fun s => .next (retire s)

/-- LD (R130). -/
def execLd (rd ra : Reg) (off5 : BitVec 5) (s : State) : Result :=
  attempt (offM5 s off5) fun off => attempt (readReg s ra) fun base =>
    attempt (memRead s (baseAddr base off)) fun temp => finishLoad s rd temp

/-- LDI (R131). -/
def execLdi (rd ra : Reg) (off5 : BitVec 5) (s : State) : Result :=
  attempt (offM5 s off5) fun off => attempt (readReg s ra) fun index =>
    attempt (memRead s (indexedAddr s index off)) fun temp => finishLoad s rd temp

/-- ST (R132): both registers are read before the write. -/
def execSt (rs ra : Reg) (off5 : BitVec 5) (s : State) : Result :=
  attempt (offM5 s off5) fun off => attempt (readReg s ra) fun base =>
    attempt (readReg s rs) fun temp => finishStore s (baseAddr base off) temp

/-- STI (R133): both registers are read before the write. -/
def execSti (rs ra : Reg) (off5 : BitVec 5) (s : State) : Result :=
  attempt (offM5 s off5) fun off => attempt (readReg s ra) fun index =>
    attempt (readReg s rs) fun temp => finishStore s (indexedAddr s index off) temp

/-- LDX (R134): one bus read. -/
def execLdx (rd ra : Reg) (off5 : BitVec 5) (s : State) : Result :=
  attempt (offM5 s off5) fun off => attempt (readReg s ra) fun base =>
    finishLoad (extRead s (baseAddr base off)) rd (busAnswer s (baseAddr base off))

/-- LDXZ (R135): one bus read. -/
def execLdxz (rd : Reg) (off8 : BitVec 8) (s : State) : Result :=
  attempt (offI8 s off8) fun off => finishLoad (extRead s off) rd (busAnswer s off)

/-- STX (R136): one bus write. -/
def execStx (rs ra : Reg) (off5 : BitVec 5) (s : State) : Result :=
  attempt (offM5 s off5) fun off => attempt (readReg s ra) fun base =>
    attempt (readReg s rs) fun temp => .next (retire (extWrite s (baseAddr base off) temp))

/-- STXZ (R137): one bus write. -/
def execStxz (rs : Reg) (off8 : BitVec 8) (s : State) : Result :=
  attempt (offI8 s off8) fun off => attempt (readReg s rs) fun temp => .next (retire (extWrite s off temp))

end Sys2Proof.Machine
end

