-- ==== Sys2Proof/Machine/Logic.lean ====
section
/-! DEFINITION. Bitwise instructions (spec/41_logic.md R105 to R110). -/

namespace Sys2Proof.Machine

/-- AND (R105). -/
def execAnd (rd ra rb : Reg) (s : State) : Result :=
  withOperands s ra rb fun opA opB => finishLogic s rd (opA &&& opB)

/-- OR (R107). -/
def execOr (rd ra rb : Reg) (s : State) : Result :=
  withOperands s ra rb fun opA opB => finishLogic s rd (opA ||| opB)

/-- XOR (R109). -/
def execXor (rd ra rb : Reg) (s : State) : Result :=
  withOperands s ra rb fun opA opB => finishLogic s rd (opA ^^^ opB)

/-- ANDI (R106). -/
def execAndi (rd ra : Reg) (imm3 : BitVec 3) (s : State) : Result :=
  attempt (readReg s ra) fun opA => finishLogic s rd (opA &&& aluImm s imm3)

/-- ORI (R108). -/
def execOri (rd ra : Reg) (imm3 : BitVec 3) (s : State) : Result :=
  attempt (readReg s ra) fun opA => finishLogic s rd (opA ||| aluImm s imm3)

/-- XORI (R110). -/
def execXori (rd ra : Reg) (imm3 : BitVec 3) (s : State) : Result :=
  attempt (readReg s ra) fun opA => finishLogic s rd (opA ^^^ aluImm s imm3)

end Sys2Proof.Machine
end

