-- ==== Sys2Proof/Machine/Move.lean ====
section
/-! DEFINITION. Moves and the immediate prefix (spec/45_move_exti.md R140 to R142). -/

namespace Sys2Proof.Machine

/-- MOVA (R140): the address is counted from the word after the MOVA word. -/
def execMova (rd : Reg) (off8 : BitVec 8) (s : State) : Result :=
  attempt (offI8 s off8) fun off => finishLoad s rd (s.pc + 1#16 + off)

/-- MOVI (R141). -/
def execMovi (rd : Reg) (imm8 : BitVec 8) (s : State) : Result :=
  attempt (offI8 s imm8) fun imm => finishLoad s rd imm

/-- EXTI (R142), the only instruction that leaves `has_ext13 = 1`. -/
def execExti (imm13 : BitVec 13) (s : State) : Result :=
  .next (((s.setExt13 imm13).setPc (s.pc + 1#16)).setHasExt13 true)

end Sys2Proof.Machine
end

