-- ==== Sys2Proof/Machine/Shift.lean ====
section
/-! DEFINITION. Shift and rotate instructions (spec/42_shift_rotate.md R115 to R122). -/

namespace Sys2Proof.Machine

/-- SLL (R115). -/
def execSll (rd ra rb : Reg) (s : State) : Result := shiftByReg shl rd ra rb s
/-- ROT, a left rotate (R121). -/
def execRot (rd ra rb : Reg) (s : State) : Result := shiftByReg rol rd ra rb s
/-- SRL (R117). -/
def execSrl (rd ra rb : Reg) (s : State) : Result := shiftByReg shr rd ra rb s
/-- SRA (R119). -/
def execSra (rd ra rb : Reg) (s : State) : Result := shiftByReg sar rd ra rb s
/-- SLLI (R116). -/
def execSlli (rd ra : Reg) (imm3 : BitVec 3) (s : State) : Result := shiftByImm shl rd ra imm3 s
/-- ROTI, a left rotate (R122). -/
def execRoti (rd ra : Reg) (imm3 : BitVec 3) (s : State) : Result := shiftByImm rol rd ra imm3 s
/-- SRLI (R118). -/
def execSrli (rd ra : Reg) (imm3 : BitVec 3) (s : State) : Result := shiftByImm shr rd ra imm3 s
/-- SRAI (R120): it reads `Ra` alone (C15, log 19). -/
def execSrai (rd ra : Reg) (imm3 : BitVec 3) (s : State) : Result := shiftByImm sar rd ra imm3 s

end Sys2Proof.Machine
end

