-- ==== Sys2Proof/Machine/Window.lean ====
section
/-! DEFINITION. Window adjustment (spec/43_window.md R125, R126). -/

namespace Sys2Proof.Machine

/-- ADJW.1 (R125). -/
def execAdjw1 (imm3 : BitVec 3) (s : State) : Result :=
  .next (retire (s.setW (windowAdd s.w (windowImm s imm3))))

/-- ADJW.2 (R126): `Rd` is a register of the NEW window, and receives the base address of the old one. -/
def execAdjw2 (rd : Reg) (imm3 : BitVec 3) (s : State) : Result :=
  attempt (writeReg (s.setW (windowAdd s.w (windowImm s imm3))) rd (windowBase s.w)) fun s => .next (retire s)

end Sys2Proof.Machine
end

