-- ==== Sys2Proof/Machine/Dispatch.lean ====
section
/-! DEFINITION. One arm per instruction, each one call of its meaning. -/

namespace Sys2Proof.Machine
open Sys2Proof

def exec (i : Instr) (s : State) : Host.Outcome State Fault Refusal :=
  match i with
  | .and rd ra rb => Sys2Proof.Machine.execAnd rd ra rb s
  | .or rd ra rb => Sys2Proof.Machine.execOr rd ra rb s
  | .xor rd ra rb => Sys2Proof.Machine.execXor rd ra rb s
  | .cmp ra rb => Sys2Proof.Machine.execCmp ra rb s
  | .andi rd ra imm3 => Sys2Proof.Machine.execAndi rd ra imm3 s
  | .ori rd ra imm3 => Sys2Proof.Machine.execOri rd ra imm3 s
  | .xori rd ra imm3 => Sys2Proof.Machine.execXori rd ra imm3 s
  | .cmpi ra imm3 => Sys2Proof.Machine.execCmpi ra imm3 s
  | .add rd ra rb => Sys2Proof.Machine.execAdd rd ra rb s
  | .adc rd ra rb => Sys2Proof.Machine.execAdc rd ra rb s
  | .sub rd ra rb => Sys2Proof.Machine.execSub rd ra rb s
  | .sbb rd ra rb => Sys2Proof.Machine.execSbb rd ra rb s
  | .addi rd ra imm3 => Sys2Proof.Machine.execAddi rd ra imm3 s
  | .adci rd ra imm3 => Sys2Proof.Machine.execAdci rd ra imm3 s
  | .subi rd ra imm3 => Sys2Proof.Machine.execSubi rd ra imm3 s
  | .sbbi rd ra imm3 => Sys2Proof.Machine.execSbbi rd ra imm3 s
  | .sll rd ra rb => Sys2Proof.Machine.execSll rd ra rb s
  | .rot rd ra rb => Sys2Proof.Machine.execRot rd ra rb s
  | .srl rd ra rb => Sys2Proof.Machine.execSrl rd ra rb s
  | .sra rd ra rb => Sys2Proof.Machine.execSra rd ra rb s
  | .slli rd ra imm3 => Sys2Proof.Machine.execSlli rd ra imm3 s
  | .roti rd ra imm3 => Sys2Proof.Machine.execRoti rd ra imm3 s
  | .srli rd ra imm3 => Sys2Proof.Machine.execSrli rd ra imm3 s
  | .srai rd ra imm3 => Sys2Proof.Machine.execSrai rd ra imm3 s
  | .adjw1 imm3 => Sys2Proof.Machine.execAdjw1 imm3 s
  | .adjw2 rd imm3 => Sys2Proof.Machine.execAdjw2 rd imm3 s
  | .ld rd ra off5 => Sys2Proof.Machine.execLd rd ra off5 s
  | .ldi rd ra off5 => Sys2Proof.Machine.execLdi rd ra off5 s
  | .st rs ra off5 => Sys2Proof.Machine.execSt rs ra off5 s
  | .sti rs ra off5 => Sys2Proof.Machine.execSti rs ra off5 s
  | .ldx rd ra off5 => Sys2Proof.Machine.execLdx rd ra off5 s
  | .ldxz rd off8 => Sys2Proof.Machine.execLdxz rd off8 s
  | .stx rs ra off5 => Sys2Proof.Machine.execStx rs ra off5 s
  | .stxz rs off8 => Sys2Proof.Machine.execStxz rs off8 s
  | .mova rd off8 => Sys2Proof.Machine.execMova rd off8 s
  | .movi rd imm8 => Sys2Proof.Machine.execMovi rd imm8 s
  | .jal rd off8 => Sys2Proof.Machine.execJal rd off8 s
  | .jr ra => Sys2Proof.Machine.execJr ra s
  | .jnz off8 => Sys2Proof.Machine.execJnz off8 s
  | .jne off8 => Sys2Proof.Machine.execJne off8 s
  | .jns off8 => Sys2Proof.Machine.execJns off8 s
  | .jnc off8 => Sys2Proof.Machine.execJnc off8 s
  | .jult off8 => Sys2Proof.Machine.execJult off8 s
  | .jno off8 => Sys2Proof.Machine.execJno off8 s
  | .jugt off8 => Sys2Proof.Machine.execJugt off8 s
  | .jsge off8 => Sys2Proof.Machine.execJsge off8 s
  | .jsgt off8 => Sys2Proof.Machine.execJsgt off8 s
  | .jn off8 => Sys2Proof.Machine.execJn off8 s
  | .jz off8 => Sys2Proof.Machine.execJz off8 s
  | .je off8 => Sys2Proof.Machine.execJe off8 s
  | .js off8 => Sys2Proof.Machine.execJs off8 s
  | .jc off8 => Sys2Proof.Machine.execJc off8 s
  | .juge off8 => Sys2Proof.Machine.execJuge off8 s
  | .jo off8 => Sys2Proof.Machine.execJo off8 s
  | .jule off8 => Sys2Proof.Machine.execJule off8 s
  | .jslt off8 => Sys2Proof.Machine.execJslt off8 s
  | .jsle off8 => Sys2Proof.Machine.execJsle off8 s
  | .j off8 => Sys2Proof.Machine.execJ off8 s
  | .exti imm13 => Sys2Proof.Machine.execExti imm13 s

end Sys2Proof.Machine
end

