-- ==== Sys2Proof/Machine/Step.lean ====
section
/-! DEFINITION. One step: fetch the word at `PC`, execute it (spec/20_memory.md R42, spec/70_reset_and_hazards.md R220). -/

namespace Sys2Proof.Machine

/-- One step of the machine. -/
def step (s : State) : Host.Outcome State Fault Refusal := fetchThen s fun i => exec i s

/-- The state with an instruction word placed where the next step fetches (log 21: a program is loaded from outside the
machine, and this stands for that load). -/
def State.withFetchWord (s : State) (nbits w : Nat) : State := placeAtPc s (tableWord nbits w)

end Sys2Proof.Machine
end

