-- ==== Sys2Proof/Machine/Assembler.lean ====
section
/-! DEFINITION. The assembler's translations (spec/47_pseudo.md R176 to R184; log 20). The hardware never sees a
pseudo-instruction: its effect is the effect of the instructions it becomes. -/

namespace Sys2Proof.Machine

/-- The mnemonics, and the operand values, that have no encoding of their own. `size` is a 16-bit pattern (R176), `amount`
is 0 to 15 (R182). -/
inductive Pseudo where
  /-- ENTR Rd, size (R176). -/
  | entr (rd : Reg) (size : Word)
  /-- LEAV Rd, size (R177; its `Rd` is accepted and ignored, C16). -/
  | leav (rd : Reg) (size : Word)
  /-- MOV Rd, Rs (R178). -/
  | mov (rd rs : Reg)
  /-- ROLI Rd, Ra, amount (R179). -/
  | roli (rd ra : Reg) (amount : BitVec 4)
  /-- RORI Rd, Ra, amount (R180). -/
  | rori (rd ra : Reg) (amount : BitVec 4)
  /-- ROTI with any amount (R183). -/
  | roti (rd ra : Reg) (amount : BitVec 4)
  /-- SLLI with any amount (R183). -/
  | slli (rd ra : Reg) (amount : BitVec 4)
  /-- SRLI with any amount (R183). -/
  | srli (rd ra : Reg) (amount : BitVec 4)
  /-- SRAI with any amount (R183). -/
  | srai (rd ra : Reg) (amount : BitVec 4)
  /-- XCHG Ra, Rb (R181). -/
  | xchg (ra rb : Reg)
deriving DecidableEq, Repr

/-- The EXTI field for a 16-bit value, `v[15:3]` (spec/45_move_exti.md R144). -/
def extOf (v : Word) : BitVec 13 := v.extractLsb' 3 13

/-- The field of the instruction after the EXTI, `v[2:0]` (R144). -/
def lowOf (v : Word) : BitVec 3 := v.extractLsb' 0 3

/-- A long form: EXTI, then the instruction with `v[2:0]` in its field (R144). -/
def longPair (v : Word) (instr : BitVec 3 → Instr) : List Instr := [.exti (extOf v), instr (lowOf v)]

/-- ADJW with a 16-bit immediate: the short form when it fits in -4 to 3, else the long form (R176, R177). -/
def windowWords (imm : Word) (instr : BitVec 3 → Instr) : List Instr :=
  if sext3 (lowOf imm) = imm then [instr (lowOf imm)] else longPair imm instr

/-- An instruction with an 8-bit field, for a 16-bit operand: the short form when it fits, else the long form with zeros
above bit 2 (spec/30_encoding.md R79, D24). -/
def wideWords (v : Word) (instr : BitVec 8 → Instr) : List Instr :=
  if sext8 (v.extractLsb' 0 8) = v then [instr (v.extractLsb' 0 8)] else longPair v fun low => instr (0#5 ++ low)

/-- The offset that a `label` operand becomes, for a jump word at `a` (spec/30_encoding.md R78). -/
def labelOffset (label a : Word) : Word := label - (a + 1#16)

/-- MOV Rd, Rs: nothing when the registers are the same, else `AND Rd, Rs, Rs` (R178; C10). -/
def movWords (rd rs : Reg) : List Instr := if rd = rs then [] else [.and rd rs rs]

/-- A shift or rotate by any amount of 0 to 15 (R183). -/
def amountWords (instr : Reg → Reg → BitVec 3 → Instr) (rd ra : Reg) (amount : Nat) : List Instr :=
  if amount = 0 then movWords rd ra
  else if amount ≤ 8 then [instr rd ra (BitVec.ofNat 3 (amount - 1))]
  else [instr rd ra 0b111#3, instr rd rd (BitVec.ofNat 3 (amount - 9))]

/-- What the assembler translates a pseudo-instruction to (R176 to R183; RORI by C11). -/
def expand : Pseudo → List Instr
  | .entr rd size => windowWords (-size) fun imm3 => .adjw2 rd imm3
  | .leav _ size => windowWords size fun imm3 => .adjw1 imm3
  | .mov rd rs => movWords rd rs
  | .roli rd ra amount => amountWords .roti rd ra amount.toNat
  | .rori rd ra amount =>
    if amount = 0#4 then movWords rd ra else amountWords .roti rd ra (16 - amount.toNat)
  | .roti rd ra amount => amountWords .roti rd ra amount.toNat
  | .slli rd ra amount => amountWords .slli rd ra amount.toNat
  | .srli rd ra amount => amountWords .srli rd ra amount.toNat
  | .srai rd ra amount => amountWords .srai rd ra amount.toNat
  | .xchg ra rb => if ra = rb then [] else [.xor ra ra rb, .xor rb rb ra, .xor ra ra rb]

/-- Instructions one after the other: what a straight run of words does when none of them overwrites a later one. -/
def runInstrs : List Instr → State → Result
  | [], s => .next s
  | i :: is, s =>
    match exec i s with
    | .next t => runInstrs is t
    | .fault r => .fault r
    | .refused r => .refused r

end Sys2Proof.Machine
end

