-- ==== Sys2Proof/Safety.lean ====
section
/-! DEFINITION. The terms in which statements speak of the machine: what a safe run is, the invariant, the end of a run,
the classes of instructions that the spec's prose names, and what a step leaves unchanged. -/

namespace Sys2Proof.Machine

/-! ## Runs -/

/-- `k` steps from a state are made without a refusal. -/
def RunsFor (k : Nat) (s : State) : Prop := ∃ t, Host.Core.run Sys2Proof.core k s = .next t

/-- The invariant of the machine: its memory is in canonical form. -/
abbrev State.Inv (s : State) : Prop := Memory.wf s.mem

/-- The end of a run, by the spec's convention: `has_ext13 = 0` and the word at `PC` is 0xBFFF, a jump to itself
(spec/70_reset_and_hazards.md R232; D22, log 22). DESIGN CHOICE, log 22: R232 and D22 do not say whether the word at `PC`
has to be present; it is not asked for here, and where it is absent the step refuses. -/
def State.ended (s : State) : Prop := s.hasExt13 = false ∧ memWord s.mem s.pc = 0xBFFF#16

end Sys2Proof.Machine

namespace Sys2Proof

/-! ## Classes of instructions -/

/-- The instructions that write flags from an addition or a subtraction (spec/10_state.md R28). -/
def Instr.isArith : Instr → Bool
  | .cmp _ _ | .cmpi _ _ | .add _ _ _ | .adc _ _ _ | .sub _ _ _ | .sbb _ _ _ | .addi _ _ _ | .adci _ _ _
  | .subi _ _ _ | .sbbi _ _ _ => true
  | .and _ _ _ | .or _ _ _ | .xor _ _ _ | .andi _ _ _ | .ori _ _ _ | .xori _ _ _ | .sll _ _ _ | .rot _ _ _
  | .srl _ _ _ | .sra _ _ _ | .slli _ _ _ | .roti _ _ _ | .srli _ _ _ | .srai _ _ _ | .adjw1 _ | .adjw2 _ _
  | .ld _ _ _ | .ldi _ _ _ | .st _ _ _ | .sti _ _ _ | .ldx _ _ _ | .ldxz _ _ | .stx _ _ _ | .stxz _ _
  | .mova _ _ | .movi _ _ | .jal _ _ | .jr _ | .jnz _ | .jne _ | .jns _ | .jnc _ | .jult _ | .jno _ | .jugt _
  | .jsge _ | .jsgt _ | .jn _ | .jz _ | .je _ | .js _ | .jc _ | .juge _ | .jo _ | .jule _ | .jslt _ | .jsle _
  | .j _ | .exti _ => false

/-- The instructions that write `Z` and `S` and leave `C` and `V` undefined (spec/41_logic.md R104). -/
def Instr.isLogic : Instr → Bool
  | .and _ _ _ | .or _ _ _ | .xor _ _ _ | .andi _ _ _ | .ori _ _ _ | .xori _ _ _ | .sll _ _ _ | .rot _ _ _
  | .srl _ _ _ | .sra _ _ _ | .slli _ _ _ | .roti _ _ _ | .srli _ _ _ | .srai _ _ _ => true
  | .cmp _ _ | .cmpi _ _ | .add _ _ _ | .adc _ _ _ | .sub _ _ _ | .sbb _ _ _ | .addi _ _ _ | .adci _ _ _
  | .subi _ _ _ | .sbbi _ _ _ | .adjw1 _ | .adjw2 _ _ | .ld _ _ _ | .ldi _ _ _ | .st _ _ _ | .sti _ _ _
  | .ldx _ _ _ | .ldxz _ _ | .stx _ _ _ | .stxz _ _ | .mova _ _ | .movi _ _ | .jal _ _ | .jr _ | .jnz _
  | .jne _ | .jns _ | .jnc _ | .jult _ | .jno _ | .jugt _ | .jsge _ | .jsgt _ | .jn _ | .jz _ | .je _ | .js _
  | .jc _ | .juge _ | .jo _ | .jule _ | .jslt _ | .jsle _ | .j _ | .exti _ => false

/-- The instructions that write `PC` themselves (spec/10_state.md R26). -/
def Instr.isJump : Instr → Bool
  | .jal _ _ | .jr _ | .jnz _ | .jne _ | .jns _ | .jnc _ | .jult _ | .jno _ | .jugt _ | .jsge _ | .jsgt _
  | .jn _ | .jz _ | .je _ | .js _ | .jc _ | .juge _ | .jo _ | .jule _ | .jslt _ | .jsle _ | .j _ => true
  | .and _ _ _ | .or _ _ _ | .xor _ _ _ | .cmp _ _ | .andi _ _ _ | .ori _ _ _ | .xori _ _ _ | .cmpi _ _
  | .add _ _ _ | .adc _ _ _ | .sub _ _ _ | .sbb _ _ _ | .addi _ _ _ | .adci _ _ _ | .subi _ _ _ | .sbbi _ _ _
  | .sll _ _ _ | .rot _ _ _ | .srl _ _ _ | .sra _ _ _ | .slli _ _ _ | .roti _ _ _ | .srli _ _ _ | .srai _ _ _
  | .adjw1 _ | .adjw2 _ _ | .ld _ _ _ | .ldi _ _ _ | .st _ _ _ | .sti _ _ _ | .ldx _ _ _ | .ldxz _ _
  | .stx _ _ _ | .stxz _ _ | .mova _ _ | .movi _ _ | .exti _ => false

/-- The instructions that write `W` (spec/10_state.md R24). -/
def Instr.movesWindow : Instr → Bool
  | .adjw1 _ | .adjw2 _ _ => true
  | .and _ _ _ | .or _ _ _ | .xor _ _ _ | .cmp _ _ | .andi _ _ _ | .ori _ _ _ | .xori _ _ _ | .cmpi _ _
  | .add _ _ _ | .adc _ _ _ | .sub _ _ _ | .sbb _ _ _ | .addi _ _ _ | .adci _ _ _ | .subi _ _ _ | .sbbi _ _ _
  | .sll _ _ _ | .rot _ _ _ | .srl _ _ _ | .sra _ _ _ | .slli _ _ _ | .roti _ _ _ | .srli _ _ _ | .srai _ _ _
  | .ld _ _ _ | .ldi _ _ _ | .st _ _ _ | .sti _ _ _ | .ldx _ _ _ | .ldxz _ _ | .stx _ _ _ | .stxz _ _
  | .mova _ _ | .movi _ _ | .jal _ _ | .jr _ | .jnz _ | .jne _ | .jns _ | .jnc _ | .jult _ | .jno _ | .jugt _
  | .jsge _ | .jsgt _ | .jn _ | .jz _ | .je _ | .js _ | .jc _ | .juge _ | .jo _ | .jule _ | .jslt _ | .jsle _
  | .j _ | .exti _ => false

/-- The prefix (spec/10_state.md R31). -/
def Instr.isExti : Instr → Bool
  | .exti _ => true
  | .and _ _ _ | .or _ _ _ | .xor _ _ _ | .cmp _ _ | .andi _ _ _ | .ori _ _ _ | .xori _ _ _ | .cmpi _ _
  | .add _ _ _ | .adc _ _ _ | .sub _ _ _ | .sbb _ _ _ | .addi _ _ _ | .adci _ _ _ | .subi _ _ _ | .sbbi _ _ _
  | .sll _ _ _ | .rot _ _ _ | .srl _ _ _ | .sra _ _ _ | .slli _ _ _ | .roti _ _ _ | .srli _ _ _ | .srai _ _ _
  | .adjw1 _ | .adjw2 _ _ | .ld _ _ _ | .ldi _ _ _ | .st _ _ _ | .sti _ _ _ | .ldx _ _ _ | .ldxz _ _
  | .stx _ _ _ | .stxz _ _ | .mova _ _ | .movi _ _ | .jal _ _ | .jr _ | .jnz _ | .jne _ | .jns _ | .jnc _
  | .jult _ | .jno _ | .jugt _ | .jsge _ | .jsgt _ | .jn _ | .jz _ | .je _ | .js _ | .jc _ | .juge _ | .jo _
  | .jule _ | .jslt _ | .jsle _ | .j _ => false

/-- The instructions that perform one `ExtRead` (spec/20_memory.md R44). -/
def Instr.readsBus : Instr → Bool
  | .ldx _ _ _ | .ldxz _ _ => true
  | .and _ _ _ | .or _ _ _ | .xor _ _ _ | .cmp _ _ | .andi _ _ _ | .ori _ _ _ | .xori _ _ _ | .cmpi _ _
  | .add _ _ _ | .adc _ _ _ | .sub _ _ _ | .sbb _ _ _ | .addi _ _ _ | .adci _ _ _ | .subi _ _ _ | .sbbi _ _ _
  | .sll _ _ _ | .rot _ _ _ | .srl _ _ _ | .sra _ _ _ | .slli _ _ _ | .roti _ _ _ | .srli _ _ _ | .srai _ _ _
  | .adjw1 _ | .adjw2 _ _ | .ld _ _ _ | .ldi _ _ _ | .st _ _ _ | .sti _ _ _ | .stx _ _ _ | .stxz _ _
  | .mova _ _ | .movi _ _ | .jal _ _ | .jr _ | .jnz _ | .jne _ | .jns _ | .jnc _ | .jult _ | .jno _ | .jugt _
  | .jsge _ | .jsgt _ | .jn _ | .jz _ | .je _ | .js _ | .jc _ | .juge _ | .jo _ | .jule _ | .jslt _ | .jsle _
  | .j _ | .exti _ => false

/-- The instructions that perform one `ExtWrite` (spec/20_memory.md R44). -/
def Instr.writesBus : Instr → Bool
  | .stx _ _ _ | .stxz _ _ => true
  | .and _ _ _ | .or _ _ _ | .xor _ _ _ | .cmp _ _ | .andi _ _ _ | .ori _ _ _ | .xori _ _ _ | .cmpi _ _
  | .add _ _ _ | .adc _ _ _ | .sub _ _ _ | .sbb _ _ _ | .addi _ _ _ | .adci _ _ _ | .subi _ _ _ | .sbbi _ _ _
  | .sll _ _ _ | .rot _ _ _ | .srl _ _ _ | .sra _ _ _ | .slli _ _ _ | .roti _ _ _ | .srli _ _ _ | .srai _ _ _
  | .adjw1 _ | .adjw2 _ _ | .ld _ _ _ | .ldi _ _ _ | .st _ _ _ | .sti _ _ _ | .ldx _ _ _ | .ldxz _ _
  | .mova _ _ | .movi _ _ | .jal _ _ | .jr _ | .jnz _ | .jne _ | .jns _ | .jnc _ | .jult _ | .jno _ | .jugt _
  | .jsge _ | .jsgt _ | .jn _ | .jz _ | .je _ | .js _ | .jc _ | .juge _ | .jo _ | .jule _ | .jslt _ | .jsle _
  | .j _ | .exti _ => false

end Sys2Proof

namespace Sys2Proof.Machine

/-! ## Operands as values -/

/-- The word register `i` names. -/
def regWord (s : State) (i : Reg) : Word := memWord s.mem (regAddr s.w i)

/-- Register `i` is a present word. -/
def regPresent (s : State) (i : Reg) : Prop := memPresent s (regAddr s.w i) = true

/-- The offset of an M5 instruction where it is defined (spec/44_load_store.md R128). -/
def effOff5 (s : State) (off5 : BitVec 5) : Word :=
  if s.hasExt13 then s.ext13 ++ off5.extractLsb' 0 3 else off5.signExtend 16

/-- The offset or immediate of an I8 or J8 instruction where it is defined (spec/44_load_store.md R128). -/
def effOff8 (s : State) (off8 : BitVec 8) : Word :=
  if s.hasExt13 then s.ext13 ++ off8.extractLsb' 0 3 else off8.signExtend 16

/-- The second operand of an ALU immediate (spec/40_arithmetic.md R92). -/
def effImm3 (s : State) (imm3 : BitVec 3) : Word :=
  if s.hasExt13 then s.ext13 ++ imm3 else Config.decodeImmediate imm3

/-- The immediate of ADJW (spec/30_encoding.md R74). -/
def effWindow (s : State) (imm3 : BitVec 3) : Word :=
  if s.hasExt13 then s.ext13 ++ imm3 else imm3.signExtend 16

/-- In a long form the bits of `off5` above bit 2 are zero (spec/30_encoding.md R71). -/
def longOk5 (s : State) (off5 : BitVec 5) : Prop := s.hasExt13 = true → off5.extractLsb' 3 2 = 0#2

/-- In a long form the bits of `off8` above bit 2 are zero (spec/30_encoding.md R71). -/
def longOk8 (s : State) (off8 : BitVec 8) : Prop := s.hasExt13 = true → off8.extractLsb' 3 5 = 0#5

/-- The address of the one word an instruction stores, if it stores one (spec/20_memory.md R47): the `Rd` word, for
ADJW.2 in the new window, or the data address of ST and STI. -/
def storedAt (i : Instr) (s : State) : Option Word :=
  match i with
  | .and rd _ _ | .or rd _ _ | .xor rd _ _ | .andi rd _ _ | .ori rd _ _ | .xori rd _ _ | .add rd _ _
  | .adc rd _ _ | .sub rd _ _ | .sbb rd _ _ | .addi rd _ _ | .adci rd _ _ | .subi rd _ _ | .sbbi rd _ _
  | .sll rd _ _ | .rot rd _ _ | .srl rd _ _ | .sra rd _ _ | .slli rd _ _ | .roti rd _ _ | .srli rd _ _
  | .srai rd _ _ | .ld rd _ _ | .ldi rd _ _ | .ldx rd _ _ | .ldxz rd _ | .mova rd _ | .movi rd _ | .jal rd _ => some (regAddr s.w rd)
  | .adjw2 rd imm3 => some (regAddr (windowAdd s.w (windowImm s imm3)) rd)
  | .st _ ra off5 => some (baseAddr (regWord s ra) (effOff5 s off5))
  | .sti _ ra off5 => some (indexedAddr s (regWord s ra) (effOff5 s off5))
  | .cmp _ _ | .cmpi _ _ | .adjw1 _ | .stx _ _ _ | .stxz _ _ | .jr _ | .jnz _ | .jne _ | .jns _ | .jnc _
  | .jult _ | .jno _ | .jugt _ | .jsge _ | .jsgt _ | .jn _ | .jz _ | .je _ | .js _ | .jc _ | .juge _ | .jo _
  | .jule _ | .jslt _ | .jsle _ | .j _ | .exti _ => none

/-- The form of the instruction is one the spec defines in this state: in a long form the upper bits of a wide field are
zero (spec/30_encoding.md R71), the amount of a register shift is at most 15 (spec/42_shift_rotate.md R112), JR does not
follow an EXTI (spec/30_encoding.md R77, D10, log 16). -/
def formDefined (i : Instr) (s : State) : Prop :=
  match i with
  | .ld _ _ off5 | .ldi _ _ off5 | .st _ _ off5 | .sti _ _ off5 | .ldx _ _ off5 | .stx _ _ off5 => longOk5 s off5
  | .ldxz _ off8 | .stxz _ off8 | .mova _ off8 | .movi _ off8 | .jal _ off8 | .jnz off8 | .jne off8 | .jns off8
  | .jnc off8 | .jult off8 | .jno off8 | .jugt off8 | .jsge off8 | .jsgt off8 | .jn off8 | .jz off8 | .je off8
  | .js off8 | .jc off8 | .juge off8 | .jo off8 | .jule off8 | .jslt off8 | .jsle off8 | .j off8 => longOk8 s off8
  | .sll _ _ rb | .rot _ _ rb | .srl _ _ rb | .sra _ _ rb => (regWord s rb).toNat ≤ 15
  | .jr _ => s.hasExt13 = false
  | .and _ _ _ | .or _ _ _ | .xor _ _ _ | .cmp _ _ | .andi _ _ _ | .ori _ _ _ | .xori _ _ _ | .cmpi _ _
  | .add _ _ _ | .adc _ _ _ | .sub _ _ _ | .sbb _ _ _ | .addi _ _ _ | .adci _ _ _ | .subi _ _ _ | .sbbi _ _ _
  | .slli _ _ _ | .roti _ _ _ | .srli _ _ _ | .srai _ _ _ | .adjw1 _ | .adjw2 _ _ | .exti _ => True

/-- The words of main memory an instruction reads or writes, after its fetch: its registers, which are words of memory
(spec/10_state.md R21), and the data word of LD, LDI, ST and STI. -/
def accessedAt (i : Instr) (s : State) : List Word :=
  match i with
  | .and rd ra rb | .or rd ra rb | .xor rd ra rb | .add rd ra rb | .adc rd ra rb | .sub rd ra rb | .sbb rd ra rb
  | .sll rd ra rb | .rot rd ra rb | .srl rd ra rb | .sra rd ra rb =>
    [regAddr s.w ra, regAddr s.w rb, regAddr s.w rd]
  | .andi rd ra _ | .ori rd ra _ | .xori rd ra _ | .addi rd ra _ | .adci rd ra _ | .subi rd ra _ | .sbbi rd ra _
  | .slli rd ra _ | .roti rd ra _ | .srli rd ra _ | .srai rd ra _ | .ldx rd ra _ =>
    [regAddr s.w ra, regAddr s.w rd]
  | .cmp ra rb => [regAddr s.w ra, regAddr s.w rb]
  | .cmpi ra _ | .jr ra => [regAddr s.w ra]
  | .ld rd ra off5 => [regAddr s.w ra, baseAddr (regWord s ra) (effOff5 s off5), regAddr s.w rd]
  | .ldi rd ra off5 => [regAddr s.w ra, indexedAddr s (regWord s ra) (effOff5 s off5), regAddr s.w rd]
  | .st rs ra off5 => [regAddr s.w ra, regAddr s.w rs, baseAddr (regWord s ra) (effOff5 s off5)]
  | .sti rs ra off5 => [regAddr s.w ra, regAddr s.w rs, indexedAddr s (regWord s ra) (effOff5 s off5)]
  | .stx rs ra _ => [regAddr s.w ra, regAddr s.w rs]
  | .ldxz rd _ | .mova rd _ | .movi rd _ | .jal rd _ => [regAddr s.w rd]
  | .stxz rs _ => [regAddr s.w rs]
  | .adjw2 rd imm3 => [regAddr (windowAdd s.w (windowImm s imm3)) rd]
  | .adjw1 _ | .jnz _ | .jne _ | .jns _ | .jnc _ | .jult _ | .jno _ | .jugt _ | .jsge _ | .jsgt _ | .jn _ | .jz _
  | .je _ | .js _ | .jc _ | .juge _ | .jo _ | .jule _ | .jslt _ | .jsle _ | .j _ | .exti _ => []

/-! ## What a step leaves unchanged -/

/-- Every byte of memory reads as before. -/
def SameMemory (s t : State) : Prop := ∀ k, readByte t.mem k = readByte s.mem k

/-- Word `a` of memory reads as `v`, and every byte outside word `a` reads as before. -/
def StoresOnly (s t : State) (a v : Word) : Prop :=
  memWord t.mem a = v ∧ ∀ k, k ≠ lowCell a → k ≠ highCell a → readByte t.mem k = readByte s.mem k

/-- The window, the pending extension's value, the present words and the bus are unchanged. -/
def KeepsWindowAndBus (s t : State) : Prop :=
  t.w = s.w ∧ t.ext13 = s.ext13 ∧ t.absent = s.absent ∧ t.busIn = s.busIn ∧ t.busLog = s.busLog

/-- The flags, and the count of draws, are unchanged. -/
def KeepsFlags (s t : State) : Prop := t.flags = s.flags ∧ t.draws = s.draws

/-- The instruction completes and writes register `rd`: every other byte, the window and the bus are unchanged. What
becomes of the flags is said separately by `flags`. -/
def WritesRegister (i : Instr) (s : State) (rd : Reg) (v : Word) (flags : State → Prop) : Prop :=
  ∃ t, exec i s = .next t ∧ StoresOnly s t (regAddr s.w rd) v ∧ KeepsWindowAndBus s t ∧ flags t

/-- The instruction completes with `PC` at `target` and changes nothing but `PC` and `has_ext13`. -/
def JumpsTo (i : Instr) (s : State) (target : Word) : Prop :=
  ∃ t, exec i s = .next t ∧ t.pc = target ∧ SameMemory s t ∧ KeepsWindowAndBus s t ∧ KeepsFlags s t

/-- The flags of an addition with carry in, said in numbers (spec/40_arithmetic.md R90): `Z` that the 16-bit word is 0 (D2,
log 11), `S` its bit 15, `C` that the sum reaches 2^16, `V` that the signed sum leaves -2^15 to 2^15 - 1. -/
def AddFlagsSay (a b : Word) (cin : Bool) (f : Flags) : Prop :=
  (f.z = true ↔ (a.toNat + b.toNat + cin.toNat) % 65536 = 0) ∧
  (f.s = true ↔ 32768 ≤ (a.toNat + b.toNat + cin.toNat) % 65536) ∧
  (f.c = true ↔ 65536 ≤ a.toNat + b.toNat + cin.toNat) ∧
  (f.v = true ↔ a.toInt + b.toInt + cin.toNat < -32768 ∨ 32767 < a.toInt + b.toInt + cin.toNat)

/-- The flags of a subtraction with borrow in, said in numbers (spec/40_arithmetic.md R91): `Z` that the 16-bit word is 0
(D2, log 11), `S` its bit 15, `C` that no borrow occurred, `V` that the signed difference leaves -2^15 to 2^15 - 1. -/
def SubFlagsSay (a b : Word) (bin : Bool) (f : Flags) : Prop :=
  (f.z = true ↔ ((a.toNat : Int) - b.toNat - bin.toNat) % 65536 = 0) ∧
  (f.s = true ↔ 32768 ≤ ((a.toNat : Int) - b.toNat - bin.toNat) % 65536) ∧
  (f.c = true ↔ b.toNat + bin.toNat ≤ a.toNat) ∧
  (f.v = true ↔ a.toInt - b.toInt - bin.toNat < -32768 ∨ 32767 < a.toInt - b.toInt - bin.toNat)

/-- The flags after a bitwise, shift or rotate instruction (spec/41_logic.md R104): `Z` and `S` from the result. Nothing is
said of `C` and `V`. -/
def LogicFlagsSay (v : Word) (f : Flags) : Prop := (f.z = true ↔ v = 0#16) ∧ (f.s = true ↔ 32768 ≤ v.toNat)

end Sys2Proof.Machine
end

