-- ==== Sys2Proof/Certificates/Slice0/Obligations.lean ====
section
/-! DEFINITION. The statements about Boneless-III. Each docstring names the rules of spec/ it formalises. "Derived" ones
rest in part on a decision of the spec or of the model, which the docstring names. -/

open Sys2Proof Sys2Proof.Machine

/-! ## Reset -/

/-- After reset no extension is pending (10_state.md R34, D15), and every word of memory, the registers' words among them,
reads as `mem_init` gives it or as any value where it gives none: the free value `Config.memInit` (20_memory.md R40; the
model's choice, log 1). -/
def Obligations.ResetHasNoExtensionAndUnwrittenMemory : Prop :=
  State.reset.hasExt13 = false ∧ ∀ a : Word, memWord State.reset.mem a = Config.memInit a

/-- The memory after reset is in canonical form (the model's form, log 2). -/
def Obligations.ResetMemoryIsCanonical : Prop := State.Inv State.reset

/-! ## Encoding -/

/-- Decoding the word of a well-formed instruction gives the instruction back, with every operand at every value; JNE, JULT,
JE and JUGE come back as JNZ, JNC, JZ and JC, which have the same words (30_encoding.md R61, R68, R81). -/
def Obligations.DecodeOfEncode : Prop := ∀ i : Instr, i.wellFormed = true → decode (encode i) = .ok i.canonical

/-- A word that decodes is the word of the instruction it decodes to, which is well-formed and a canonical spelling: no bit
of a listed word is dropped (30_encoding.md R66). -/
def Obligations.EncodeOfDecode : Prop :=
  ∀ (w : Word) (i : Instr), decode w = .ok i → encode i = w ∧ i.wellFormed = true ∧ i.canonical = i

/-- The words that are not listed are exactly those of 30_encoding.md R75, and executing one has no meaning: the step is
refused. -/
def Obligations.UnlistedWordsAreExactlyThese : Prop :=
  (∀ w : Word, (∃ r, decode w = .error r) ↔
    (w.extractLsb' 11 5 ∈ [0b00110#5, 0b10011#5, 0b10100#5, 0b10101#5, 0b11100#5, 0b11101#5, 0b11110#5, 0b11111#5]) ∨
    (w.extractLsb' 11 5 ∈ [0b00000#5, 0b00001#5] ∧ w.extractLsb' 3 2 = 0b11#2 ∧ w.extractLsb' 8 3 ≠ 0b000#3) ∨
    (w.extractLsb' 11 5 = 0b00111#5 ∧ w.extractLsb' 3 8 ≠ 0b00000011#8 ∧ w.extractLsb' 3 5 ≠ 0b00111#5)) ∧
  (∀ (s : State) (r : Reject), memPresent s s.pc = true → decode (memWord s.mem s.pc) = .error r →
    step s = .refused (.encodingNotListed r))

/-- Words written out from the spec's encodings, one of each family, decode to the instructions they stand for
(40_arithmetic.md R93; 41_logic.md R108; 42_shift_rotate.md R119; 43_window.md R126; 44_load_store.md R131, R137;
45_move_exti.md R142; 46_jump.md R148, R149, R162). -/
def Obligations.WrittenWordsDecode : Prop :=
  decode 0x1322#16 = .ok (.add 3#3 1#3 2#3) ∧ decode 0x0B28#16 = .ok (.ori 3#3 1#3 0#3) ∧
  decode 0x233A#16 = .ok (.sra 3#3 1#3 2#3) ∧ decode 0x3E3F#16 = .ok (.adjw2 6#3 7#3) ∧
  decode 0x4B23#16 = .ok (.ldi 3#3 1#3 3#5) ∧ decode 0x7BFF#16 = .ok (.stxz 3#3 0xFF#8) ∧
  decode 0xDFFF#16 = .ok (.exti 0x1FFF#13) ∧ decode 0x9720#16 = .ok (.jal 7#3 0x20#8) ∧
  decode 0xBF00#16 = .ok (.jr 7#3) ∧ decode 0xB410#16 = .ok (.jugt 0x10#8)

/-- The two spellings of a shared encoding have one word and one effect (30_encoding.md R81). -/
def Obligations.SharedEncodingsShareTheEffect : Prop :=
  ∀ (off8 : BitVec 8) (s : State),
    (encode (.jne off8) = encode (.jnz off8) ∧ exec (.jne off8) s = exec (.jnz off8) s) ∧
    (encode (.jult off8) = encode (.jnc off8) ∧ exec (.jult off8) s = exec (.jnc off8) s) ∧
    (encode (.je off8) = encode (.jz off8) ∧ exec (.je off8) s = exec (.jz off8) s) ∧
    (encode (.juge off8) = encode (.jc off8) ∧ exec (.juge off8) s = exec (.jc off8) s)

/-! ## The step -/

/-- Where the word at `PC` is present and decodes, the step is that instruction's meaning at that state: the step adds
nothing around it, the meaning itself advances `PC` (20_memory.md R42; D8, log 14). -/
def Obligations.StepRunsTheDecodedInstruction : Prop :=
  ∀ (s : State) (i : Instr), memPresent s s.pc = true → decode (memWord s.mem s.pc) = .ok i → step s = exec i s

/-- A word placed where the next step fetches is what the next step executes, whatever the state, and placing it changes no
other word of memory and the presence of no other word (the model's way to say that a program was loaded, log 21;
20_memory.md R42, R54). -/
def Obligations.PlacedWordIsExecutedNext : Prop :=
  ∀ (s : State) (n : Nat) (i : Instr), decodeTableWord 16 n = some i →
    step (s.withFetchWord 16 n) = exec i (s.withFetchWord 16 n) ∧
    ∀ a : Word, a ≠ s.pc → memWord (s.withFetchWord 16 n).mem a = memWord s.mem a ∧
      memPresent (s.withFetchWord 16 n) a = memPresent s a

/-- An instruction completes exactly when its form is defined and every word it reads or writes is present; otherwise it
is refused as a whole. A fetch from an absent word is refused, and a defined instruction that touches one is refused naming
one (20_memory.md R49, 30_encoding.md R71, 42_shift_rotate.md R112, 60_exceptions.md R204; D16, log 7; D10, log 16). -/
def Obligations.InstructionsCompleteExactlyWhenDefined : Prop :=
  (∀ s : State, memPresent s s.pc = false → step s = .refused (.absentMemory s.pc)) ∧
  (∀ (i : Instr) (s : State),
    (∃ t, exec i s = .next t) ↔ formDefined i s ∧ ∀ a ∈ accessedAt i s, memPresent s a = true) ∧
  (∀ (i : Instr) (s : State), formDefined i s → (∃ a ∈ accessedAt i s, memPresent s a = false) →
    ∃ a ∈ accessedAt i s, memPresent s a = false ∧ exec i s = .refused (.absentMemory a))

/-- A word 0xBFFF with no extension pending is the end of a run: where that word is present the step maps the state to
itself (70_reset_and_hazards.md R232; D22, log 22). That presence is a premise here and no part of `State.ended` is the
model's choice (log 22). -/
def Obligations.EndOfRunStateIsFixed : Prop :=
  ∀ s : State, s.ended → memPresent s s.pc = true → step s = .next s

/-! ## Memory and the window -/

/-- Every step keeps the memory in canonical form (the model's form, log 2; 20_memory.md R41). -/
def Obligations.StepKeepsMemoryCanonical : Prop := ∀ s t : State, s.Inv → step s = .next t → t.Inv

/-- Two memories in canonical form with the same stored bytes are the same data (the model's form, log 2). -/
def Obligations.CanonicalMemoriesAreEqualData : Prop :=
  ∀ m n : Memory, Memory.wf m → Memory.wf n → (∀ k, Memory.stored m k = Memory.stored n k) → m = n

/-- The registers of two windows are the same words only for the same window and the same number: windows are the same
eight words or disjoint (10_state.md R21, R23). -/
def Obligations.WindowsAreEqualOrDisjoint : Prop :=
  (∀ (w : Window) (i : Reg), (regAddr w i).toNat = w.toNat * 8 + i.toNat) ∧
  ∀ (w w' : Window) (i j : Reg), regAddr w i = regAddr w' j → w = w' ∧ i = j

/-- Registers are memory words: a store to a register's address writes the register, and a load from there reads it
(10_state.md R21, 44_load_store.md R129). -/
def Obligations.RegistersAreMemoryWords : Prop :=
  (∀ (rs ra r : Reg) (off5 : BitVec 5) (s t : State), exec (.st rs ra off5) s = .next t →
    regWord s ra + effOff5 s off5 = regAddr s.w r → regWord t r = regWord s rs) ∧
  (∀ (rd ra r : Reg) (off5 : BitVec 5) (s t : State), exec (.ld rd ra off5) s = .next t →
    regWord s ra + effOff5 s off5 = regAddr s.w r → regWord t rd = regWord s r)

/-- A load after a store to the same address sees the stored word, also where the store changed the load's own address
register (20_memory.md R51; D23, log 14). -/
def Obligations.LoadAfterStoreSeesTheStoredWord : Prop :=
  ∀ (rs ra rd rb : Reg) (off5 off5' : BitVec 5) (s t u : State),
    exec (.st rs ra off5) s = .next t → exec (.ld rd rb off5') t = .next u →
    regWord t rb + off5'.signExtend 16 = regWord s ra + effOff5 s off5 → regWord u rd = regWord s rs

/-- A word that STI stores at the next address is the very next instruction (20_memory.md R54; D9, log 14). -/
def Obligations.StoredCodeIsFetchedNext : Prop :=
  ∀ (rs ra : Reg) (off5 : BitVec 5) (s t : State) (i : Instr), exec (.sti rs ra off5) s = .next t →
    regWord s ra + effOff5 s off5 = 1#16 → decode (regWord s rs) = .ok i → step t = exec i t

/-! ## What every instruction leaves unchanged -/

/-- An instruction stores at most one word, at the address its rule computes: its `Rd` (for ADJW.2 in the new window) or
the data address of ST and STI; every other byte of memory reads as before (20_memory.md R47). -/
def Obligations.ExecStoresOnlyAtItsStoredAddress : Prop :=
  ∀ (i : Instr) (s t : State), exec i s = .next t →
    ∀ k, (∀ a, storedAt i s = some a → k ≠ lowCell a ∧ k ≠ highCell a) → readByte t.mem k = readByte s.mem k

/-- `W` is written by ADJW.1 and ADJW.2 alone (10_state.md R24). -/
def Obligations.OnlyAdjwMovesTheWindow : Prop :=
  ∀ (i : Instr) (s t : State), i.movesWindow = false → exec i s = .next t → t.w = s.w

/-- EXTI alone leaves an extension pending, and EXTI alone changes `ext13` (10_state.md R31; D3, D4, D12, log 12). -/
def Obligations.OnlyExtiLeavesAnExtension : Prop :=
  ∀ (i : Instr) (s t : State), exec i s = .next t →
    t.hasExt13 = i.isExti ∧ (i.isExti = false → t.ext13 = s.ext13)

/-- The instructions outside the arithmetic, compare, bitwise, shift and rotate groups write no flag (10_state.md R29). -/
def Obligations.OtherInstructionsWriteNoFlag : Prop :=
  ∀ (i : Instr) (s t : State), i.isArith = false → i.isLogic = false → exec i s = .next t → KeepsFlags s t

/-- Each LDX or LDXZ performs one bus read, each STX or STXZ one bus write, and no other instruction touches the bus; the
history grows at its end and is never rewritten (20_memory.md R44, 70_reset_and_hazards.md R230; D17, log 8). -/
def Obligations.BusAccessesAreExact : Prop :=
  ∀ (i : Instr) (s t : State), exec i s = .next t →
    (i.readsBus = true → (∃ a v, t.busLog = s.busLog ++ [.read a v]) ∧ t.busIn = s.busIn.tail) ∧
    (i.writesBus = true → (∃ a v, t.busLog = s.busLog ++ [.write a v]) ∧ t.busIn = s.busIn) ∧
    (i.readsBus = false → i.writesBus = false → t.busLog = s.busLog ∧ t.busIn = s.busIn)

/-- No step changes which words are present (10_state.md R20: the parameters are configuration). -/
def Obligations.NoStepChangesWhichWordsArePresent : Prop :=
  ∀ (s t : State) (a : Word), step s = .next t → memPresent t a = memPresent s a

/-- An instruction that is no jump ends with `pc <- pc + 1`, mod 2^16 (10_state.md R26, R27; D8, D5, log 14). -/
def Obligations.InstructionsThatAreNoJumpAdvancePc : Prop :=
  ∀ (i : Instr) (s t : State), i.isJump = false → exec i s = .next t → t.pc = s.pc + 1#16

/-- The result, `Z`, `S` and everything else but `C` and `V` of a bitwise, shift or rotate instruction do not depend on the
flags before it or on what was drawn before it (00_scope.md R11, 41_logic.md R104). -/
def Obligations.LogicResultsDoNotDependOnFlagsOrDraws : Prop :=
  ∀ (i : Instr) (s t : State) (f : Flags) (n : Nat), i.isLogic = true → exec i s = .next t →
    ∃ u, exec i ((s.setFlags f).setDraws n) = .next u ∧ u.mem = t.mem ∧ u.flags.z = t.flags.z ∧ u.flags.s = t.flags.s ∧
      u.pc = t.pc ∧ u.hasExt13 = t.hasExt13 ∧ KeepsWindowAndBus t u

/-! ## Arithmetic and compare -/

/-- ADD and ADC complete wherever their three registers are present words, write the sum mod 2^16 and the four flags, and
change nothing else but `PC` and `has_ext13` (40_arithmetic.md R90, R93, R95; `Z` by D2, log 11). -/
def Obligations.AddAndAdcWriteSumAndFlags : Prop :=
  ∀ (rd ra rb : Reg) (s : State), regPresent s ra → regPresent s rb → regPresent s rd →
    WritesRegister (.add rd ra rb) s rd (BitVec.ofNat 16 ((regWord s ra).toNat + (regWord s rb).toNat))
      (fun t => AddFlagsSay (regWord s ra) (regWord s rb) false t.flags ∧ t.draws = s.draws) ∧
    WritesRegister (.adc rd ra rb) s rd
      (BitVec.ofNat 16 ((regWord s ra).toNat + (regWord s rb).toNat + s.flags.c.toNat))
      (fun t => AddFlagsSay (regWord s ra) (regWord s rb) s.flags.c t.flags ∧ t.draws = s.draws)

/-- ADDI and ADCI complete wherever their two registers are present words, write the sum mod 2^16 of the register and the
immediate (for ADCI with `C`) and the four flags, and change nothing else but `PC` and `has_ext13`. The immediate is
`ext13 ++ imm3` in the long form and the free value `decode_immediate(imm3)` in the short (40_arithmetic.md R92, R94, R96;
D1, log 10; `Z` by D2, log 11). -/
def Obligations.AddiAndAdciWriteSumAndFlags : Prop :=
  ∀ (rd ra : Reg) (imm3 : BitVec 3) (s : State), regPresent s ra → regPresent s rd →
    WritesRegister (.addi rd ra imm3) s rd (BitVec.ofNat 16 ((regWord s ra).toNat + (effImm3 s imm3).toNat))
      (fun t => AddFlagsSay (regWord s ra) (effImm3 s imm3) false t.flags ∧ t.draws = s.draws) ∧
    WritesRegister (.adci rd ra imm3) s rd
      (BitVec.ofNat 16 ((regWord s ra).toNat + (effImm3 s imm3).toNat + s.flags.c.toNat))
      (fun t => AddFlagsSay (regWord s ra) (effImm3 s imm3) s.flags.c t.flags ∧ t.draws = s.draws)

/-- SUB and SBB complete wherever their three registers are present words, write the difference mod 2^16 (for SBB less the
complement of `C`) and the four flags, and change nothing else but `PC` and `has_ext13` (40_arithmetic.md R91, R97, R99;
`Z` by D2, log 11). -/
def Obligations.SubAndSbbWriteDifferenceAndFlags : Prop :=
  ∀ (rd ra rb : Reg) (s : State), regPresent s ra → regPresent s rb → regPresent s rd →
    WritesRegister (.sub rd ra rb) s rd (BitVec.ofInt 16 ((regWord s ra).toNat - (regWord s rb).toNat))
      (fun t => SubFlagsSay (regWord s ra) (regWord s rb) false t.flags ∧ t.draws = s.draws) ∧
    WritesRegister (.sbb rd ra rb) s rd
      (BitVec.ofInt 16 ((regWord s ra).toNat - (regWord s rb).toNat - (!s.flags.c).toNat))
      (fun t => SubFlagsSay (regWord s ra) (regWord s rb) (!s.flags.c) t.flags ∧ t.draws = s.draws)

/-- SUBI and SBBI complete wherever their two registers are present words, write the difference mod 2^16 of the register and
the immediate of ADDI (for SBBI less the complement of `C`) and the four flags, and change nothing else but `PC` and
`has_ext13` (40_arithmetic.md R92, R98, R100; D1, log 10; `Z` by D2, log 11). -/
def Obligations.SubiAndSbbiWriteDifferenceAndFlags : Prop :=
  ∀ (rd ra : Reg) (imm3 : BitVec 3) (s : State), regPresent s ra → regPresent s rd →
    WritesRegister (.subi rd ra imm3) s rd (BitVec.ofInt 16 ((regWord s ra).toNat - (effImm3 s imm3).toNat))
      (fun t => SubFlagsSay (regWord s ra) (effImm3 s imm3) false t.flags ∧ t.draws = s.draws) ∧
    WritesRegister (.sbbi rd ra imm3) s rd
      (BitVec.ofInt 16 ((regWord s ra).toNat - (effImm3 s imm3).toNat - (!s.flags.c).toNat))
      (fun t => SubFlagsSay (regWord s ra) (effImm3 s imm3) (!s.flags.c) t.flags ∧ t.draws = s.draws)

/-- CMP and CMPI complete wherever their registers are present words, write the four flags of the subtraction and no register
or memory word (40_arithmetic.md R91, R101, R102; D1, log 10). -/
def Obligations.CmpAndCmpiWriteFlagsOnly : Prop :=
  (∀ (ra rb : Reg) (s : State), regPresent s ra → regPresent s rb →
    ∃ t, exec (.cmp ra rb) s = .next t ∧ SameMemory s t ∧ KeepsWindowAndBus s t ∧
      SubFlagsSay (regWord s ra) (regWord s rb) false t.flags ∧ t.draws = s.draws) ∧
  (∀ (ra : Reg) (imm3 : BitVec 3) (s : State), regPresent s ra →
    ∃ t, exec (.cmpi ra imm3) s = .next t ∧ SameMemory s t ∧ KeepsWindowAndBus s t ∧
      SubFlagsSay (regWord s ra) (effImm3 s imm3) false t.flags ∧ t.draws = s.draws)

/-- The three facts that 40_arithmetic.md R91 derives about the flags of a subtraction without borrow in: `C` says `a >= b` unsigned,
`Z` says `a = b`, `S xor V` says `a < b` signed. -/
def Obligations.SubtractionFlagsOrderTheOperands : Prop :=
  ∀ a b : Word, ((subFlags a b false).2.c = true ↔ b.toNat ≤ a.toNat) ∧ ((subFlags a b false).2.z = true ↔ a = b) ∧
    (((subFlags a b false).2.s ^^ (subFlags a b false).2.v) = true ↔ a.toInt < b.toInt)

/-- ADD then ADC add 32-bit numbers, low word first, with the carry out of bit 31 in `C` (40_arithmetic.md R95, R103; the
source's example S1). The low result is no operand of the high addition, and the two results are two registers. -/
def Obligations.AddThenAdcAddsDoubleWords : Prop :=
  ∀ (d0 a0 b0 d1 a1 b1 : Reg) (s : State), regPresent s d0 → regPresent s a0 → regPresent s b0 → regPresent s d1 →
    regPresent s a1 → regPresent s b1 → d0 ≠ a1 → d0 ≠ b1 → d0 ≠ d1 →
    ∃ t, runInstrs [.add d0 a0 b0, .adc d1 a1 b1] s = .next t ∧
      (regWord t d1).toNat * 65536 + (regWord t d0).toNat =
        ((regWord s a1).toNat * 65536 + (regWord s a0).toNat +
          ((regWord s b1).toNat * 65536 + (regWord s b0).toNat)) % 4294967296 ∧
      (t.flags.c = true ↔ 4294967296 ≤ (regWord s a1).toNat * 65536 + (regWord s a0).toNat +
          ((regWord s b1).toNat * 65536 + (regWord s b0).toNat))

/-- SUB then SBB subtract 32-bit numbers, low word first, with `C` saying that the whole did not borrow (40_arithmetic.md
R99, R103; the source's example S3). The low result is no operand of the high subtraction, and the two results are two
registers. -/
def Obligations.SubThenSbbSubtractsDoubleWords : Prop :=
  ∀ (d0 a0 b0 d1 a1 b1 : Reg) (s : State), regPresent s d0 → regPresent s a0 → regPresent s b0 → regPresent s d1 →
    regPresent s a1 → regPresent s b1 → d0 ≠ a1 → d0 ≠ b1 → d0 ≠ d1 →
    ∃ t, runInstrs [.sub d0 a0 b0, .sbb d1 a1 b1] s = .next t ∧
      (((regWord t d1).toNat * 65536 + (regWord t d0).toNat : Nat) : Int) =
        (((regWord s a1).toNat * 65536 + (regWord s a0).toNat : Nat) -
          ((regWord s b1).toNat * 65536 + (regWord s b0).toNat : Nat) : Int) % 4294967296 ∧
      (t.flags.c = true ↔ (regWord s b1).toNat * 65536 + (regWord s b0).toNat ≤
        (regWord s a1).toNat * 65536 + (regWord s a0).toNat)

/-! ## Bitwise -/

/-- AND, OR and XOR have the words of their rules, complete wherever their three registers are present words, write the
bit-by-bit result, and `Z` and `S` from it; `C` and `V` are undefined: nothing is said of them (41_logic.md R105, R107,
R109). -/
def Obligations.BitwiseInstructionsWriteResult : Prop :=
  ∀ (rd ra rb : Reg) (s : State),
    decode (0b00000#5 ++ rd ++ ra ++ 0b00#2 ++ rb) = .ok (.and rd ra rb) ∧
    decode (0b00000#5 ++ rd ++ ra ++ 0b01#2 ++ rb) = .ok (.or rd ra rb) ∧
    decode (0b00000#5 ++ rd ++ ra ++ 0b10#2 ++ rb) = .ok (.xor rd ra rb) ∧
    (regPresent s ra → regPresent s rb → regPresent s rd →
      (∃ v : Word, (∀ k, k < 16 → v.getLsbD k = ((regWord s ra).getLsbD k && (regWord s rb).getLsbD k)) ∧
        WritesRegister (.and rd ra rb) s rd v (fun t => LogicFlagsSay v t.flags)) ∧
      (∃ v : Word, (∀ k, k < 16 → v.getLsbD k = ((regWord s ra).getLsbD k || (regWord s rb).getLsbD k)) ∧
        WritesRegister (.or rd ra rb) s rd v (fun t => LogicFlagsSay v t.flags)) ∧
      (∃ v : Word, (∀ k, k < 16 → v.getLsbD k = ((regWord s ra).getLsbD k ^^ (regWord s rb).getLsbD k)) ∧
        WritesRegister (.xor rd ra rb) s rd v (fun t => LogicFlagsSay v t.flags)))

/-- ANDI, ORI and XORI complete wherever their two registers are present words, write the bit-by-bit result with the
immediate, and `Z` and `S` from it; nothing is said of `C` and `V`. The immediate is `ext13 ++ imm3` in the long form and the
free value `decode_immediate(imm3)` in the short (41_logic.md R106, R108, R110; D1, log 10). -/
def Obligations.BitwiseImmediatesWriteResult : Prop :=
  ∀ (rd ra : Reg) (imm3 : BitVec 3) (s : State), regPresent s ra → regPresent s rd →
    (∃ v : Word, (∀ k, k < 16 → v.getLsbD k = ((regWord s ra).getLsbD k && (effImm3 s imm3).getLsbD k)) ∧
      WritesRegister (.andi rd ra imm3) s rd v (fun t => LogicFlagsSay v t.flags)) ∧
    (∃ v : Word, (∀ k, k < 16 → v.getLsbD k = ((regWord s ra).getLsbD k || (effImm3 s imm3).getLsbD k)) ∧
      WritesRegister (.ori rd ra imm3) s rd v (fun t => LogicFlagsSay v t.flags)) ∧
    (∃ v : Word, (∀ k, k < 16 → v.getLsbD k = ((regWord s ra).getLsbD k ^^ (effImm3 s imm3).getLsbD k)) ∧
      WritesRegister (.xori rd ra imm3) s rd v (fun t => LogicFlagsSay v t.flags))

/-! ## Shifts and rotate -/

/-- SLL, SRL, SRA and ROT by an amount of 0 to 15 complete and write the shifted word in numbers: times 2^n mod 2^16,
divided by 2^n rounding down, the signed word divided by 2^n rounding down, and bit `k` from bit `k - n` mod 16
(42_shift_rotate.md R114, R115, R117, R119, R121; the right shifts by C5, log 19). -/
def Obligations.RegisterShiftsWriteResult : Prop :=
  ∀ (rd ra rb : Reg) (s : State) (n : Nat), regPresent s ra → regPresent s rb → regPresent s rd →
    (regWord s rb).toNat = n → n ≤ 15 →
    (∃ v : Word, v.toNat = (regWord s ra).toNat * 2 ^ n % 65536 ∧
      WritesRegister (.sll rd ra rb) s rd v (fun t => LogicFlagsSay v t.flags)) ∧
    (∃ v : Word, v.toNat = (regWord s ra).toNat / 2 ^ n ∧
      WritesRegister (.srl rd ra rb) s rd v (fun t => LogicFlagsSay v t.flags)) ∧
    (∃ v : Word, v.toInt = (regWord s ra).toInt / 2 ^ n ∧
      WritesRegister (.sra rd ra rb) s rd v (fun t => LogicFlagsSay v t.flags)) ∧
    (∃ v : Word, (∀ k, k < 16 → v.getLsbD k = (regWord s ra).getLsbD ((k + 16 - n) % 16)) ∧
      WritesRegister (.rot rd ra rb) s rd v (fun t => LogicFlagsSay v t.flags))

/-- A register shift or rotate is refused when the whole amount register is above 15, and for the amount 0 it returns the
operand unchanged (42_shift_rotate.md R112). -/
def Obligations.RegisterShiftAmountRange : Prop :=
  ∀ (rd ra rb : Reg) (s : State) (i : Instr), regPresent s ra → regPresent s rb →
    i ∈ [Instr.sll rd ra rb, .srl rd ra rb, .sra rd ra rb, .rot rd ra rb] →
    (15 < (regWord s rb).toNat → exec i s = .refused .shiftAmountAbove15) ∧
    ((regWord s rb).toNat = 0 → regPresent s rd →
      WritesRegister i s rd (regWord s ra) (fun t => LogicFlagsSay (regWord s ra) t.flags))

/-- SLLI, SRLI, SRAI and ROTI shift by `imm3 + 1`, whether or not an extension is pending (42_shift_rotate.md R113, R114,
R116, R118, R120, R122; the right shifts by C5, SRAI's word by C1, log 19). -/
def Obligations.ImmediateShiftsWriteResult : Prop :=
  ∀ (rd ra : Reg) (imm3 : BitVec 3) (s : State), regPresent s ra → regPresent s rd →
    (∃ v : Word, v.toNat = (regWord s ra).toNat * 2 ^ (imm3.toNat + 1) % 65536 ∧
      WritesRegister (.slli rd ra imm3) s rd v (fun t => LogicFlagsSay v t.flags)) ∧
    (∃ v : Word, v.toNat = (regWord s ra).toNat / 2 ^ (imm3.toNat + 1) ∧
      WritesRegister (.srli rd ra imm3) s rd v (fun t => LogicFlagsSay v t.flags)) ∧
    (∃ v : Word, v.toInt = (regWord s ra).toInt / 2 ^ (imm3.toNat + 1) ∧
      WritesRegister (.srai rd ra imm3) s rd v (fun t => LogicFlagsSay v t.flags)) ∧
    (∃ v : Word, (∀ k, k < 16 → v.getLsbD k = (regWord s ra).getLsbD ((k + 16 - (imm3.toNat + 1)) % 16)) ∧
      WritesRegister (.roti rd ra imm3) s rd v (fun t => LogicFlagsSay v t.flags))

/-- The assembler's one or two words for SLLI, SRLI, SRAI and ROTI by any amount of 1 to 15 give the one-step result
(47_pseudo.md R183, 42_shift_rotate.md R114). -/
def Obligations.TranslatedShiftsEqualOneShift : Prop :=
  ∀ (rd ra : Reg) (n : BitVec 4) (s : State), regPresent s ra → regPresent s rd → n ≠ 0#4 →
    (∃ t, runInstrs (expand (.slli rd ra n)) s = .next t ∧
      (regWord t rd).toNat = (regWord s ra).toNat * 2 ^ n.toNat % 65536) ∧
    (∃ t, runInstrs (expand (.srli rd ra n)) s = .next t ∧
      (regWord t rd).toNat = (regWord s ra).toNat / 2 ^ n.toNat) ∧
    (∃ t, runInstrs (expand (.srai rd ra n)) s = .next t ∧
      (regWord t rd).toInt = (regWord s ra).toInt / 2 ^ n.toNat) ∧
    (∃ t, runInstrs (expand (.roti rd ra n)) s = .next t ∧
      ∀ k, k < 16 → (regWord t rd).getLsbD k = (regWord s ra).getLsbD ((k + 16 - n.toNat) % 16))

/-! ## The window -/

/-- ADJW.1 completes in every state, moves the window by the immediate mod 2^13 (-4 to 3 in the short form), and changes
nothing else but `PC` and `has_ext13` (43_window.md R124, R125; D7, log 13). -/
def Obligations.AdjustWindowMovesTheWindow : Prop :=
  ∀ (imm3 : BitVec 3) (s : State), ∃ t, exec (.adjw1 imm3) s = .next t ∧
    (s.hasExt13 = false → (t.w.toNat : Int) = (s.w.toNat + imm3.toInt) % 8192) ∧
    (s.hasExt13 = true → t.w.toNat = (s.w.toNat + (s.ext13 ++ imm3).toNat) % 8192) ∧
    SameMemory s t ∧ KeepsFlags s t ∧ t.ext13 = s.ext13 ∧ t.absent = s.absent ∧ t.busIn = s.busIn ∧ t.busLog = s.busLog

/-- ADJW.2 completes where the `Rd` word of the NEW window is present, moves the window as ADJW.1 does and stores eight times
the old window number there, and nothing else (43_window.md R124, R126; D7, log 13). -/
def Obligations.AdjustWindowStoresTheOldBase : Prop :=
  ∀ (rd : Reg) (imm3 : BitVec 3) (s : State) (w : Window),
    (s.hasExt13 = false → (w.toNat : Int) = (s.w.toNat + imm3.toInt) % 8192) →
    (s.hasExt13 = true → w.toNat = (s.w.toNat + (s.ext13 ++ imm3).toNat) % 8192) →
    memPresent s (regAddr w rd) = true →
    ∃ t, exec (.adjw2 rd imm3) s = .next t ∧ t.w = w ∧
      StoresOnly s t (regAddr w rd) (BitVec.ofNat 16 (s.w.toNat * 8)) ∧ KeepsFlags s t ∧
      t.ext13 = s.ext13 ∧ t.absent = s.absent ∧ t.busIn = s.busIn ∧ t.busLog = s.busLog

/-- ENTR moves the window down by `size` and leaves the caller's base address in `Rd` of the new window; LEAV with the same
`size` brings the window back, whatever its ignored `Rd`; no other byte of memory changes (47_pseudo.md R176, R177; C16,
log 20; D7, D25, log 13). -/
def Obligations.EnterThenLeaveRestoresTheWindow : Prop :=
  ∀ (rd rd' : Reg) (size : Word) (s : State), s.hasExt13 = false →
    memPresent s (regAddr (s.w - size.extractLsb' 0 13) rd) = true →
    ∃ t u, runInstrs (expand (.entr rd size)) s = .next t ∧ t.w = s.w - size.extractLsb' 0 13 ∧
      regWord t rd = regAddr s.w 0#3 ∧ runInstrs (expand (.leav rd' size)) t = .next u ∧ u.w = s.w ∧
      StoresOnly s u (regAddr t.w rd) (regAddr s.w 0#3)

/-! ## Loads and stores -/

/-- LD and LDI complete where the form is defined and the words they touch are present, and write the word at
`x[Ra] + off` and at `pc + x[Ra] + off` to `Rd`, and nothing else but `PC` and `has_ext13` (44_load_store.md R128, R130,
R131; D6, log 13; C6, log 19). -/
def Obligations.LoadsReadMemory : Prop :=
  ∀ (rd ra : Reg) (off5 : BitVec 5) (s : State), longOk5 s off5 → regPresent s ra → regPresent s rd →
    (memPresent s (regWord s ra + effOff5 s off5) = true →
      WritesRegister (.ld rd ra off5) s rd (memWord s.mem (regWord s ra + effOff5 s off5)) (KeepsFlags s)) ∧
    (memPresent s (s.pc + regWord s ra + effOff5 s off5) = true →
      WritesRegister (.ldi rd ra off5) s rd (memWord s.mem (s.pc + regWord s ra + effOff5 s off5)) (KeepsFlags s))

/-- ST and STI complete where the form is defined and the words they touch are present, and store `Rs` at `x[Ra] + off` and at
`pc + x[Ra] + off`, and nothing else but `PC` and `has_ext13` (44_load_store.md R128, R132, R133; D6, log 13; C6, log 19). -/
def Obligations.StoresWriteMemory : Prop :=
  ∀ (rs ra : Reg) (off5 : BitVec 5) (s : State), longOk5 s off5 → regPresent s ra → regPresent s rs →
    (memPresent s (baseAddr (regWord s ra) (effOff5 s off5)) = true →
      ∃ t, exec (.st rs ra off5) s = .next t ∧
        StoresOnly s t (baseAddr (regWord s ra) (effOff5 s off5)) (regWord s rs) ∧
        KeepsWindowAndBus s t ∧ KeepsFlags s t) ∧
    (memPresent s (indexedAddr s (regWord s ra) (effOff5 s off5)) = true →
      ∃ t, exec (.sti rs ra off5) s = .next t ∧
        StoresOnly s t (indexedAddr s (regWord s ra) (effOff5 s off5)) (regWord s rs) ∧
        KeepsWindowAndBus s t ∧ KeepsFlags s t)

/-- LDX and LDXZ complete where the form is defined and their registers are present, perform one bus read, at `x[Ra] + off`
and at `off`, and write the word the platform answers, whatever it is, to `Rd`; no other byte of memory changes
(44_load_store.md R128, R134, R135, 20_memory.md R44; D6, log 13; D17, log 8). -/
def Obligations.BusLoadsWriteTheAnswer : Prop :=
  ∀ (rd ra : Reg) (s : State), regPresent s rd →
    (∀ off5 : BitVec 5, longOk5 s off5 → regPresent s ra →
      ∃ t v, exec (.ldx rd ra off5) s = .next t ∧ (∀ u us, s.busIn = u :: us → v = u) ∧
        t.busLog = s.busLog ++ [.read (regWord s ra + effOff5 s off5) v] ∧ t.busIn = s.busIn.tail ∧
        StoresOnly s t (regAddr s.w rd) v ∧ KeepsFlags s t ∧ t.w = s.w ∧ t.ext13 = s.ext13 ∧ t.absent = s.absent) ∧
    (∀ off8 : BitVec 8, longOk8 s off8 →
      ∃ t v, exec (.ldxz rd off8) s = .next t ∧ (∀ u us, s.busIn = u :: us → v = u) ∧
        t.busLog = s.busLog ++ [.read (effOff8 s off8) v] ∧ t.busIn = s.busIn.tail ∧
        StoresOnly s t (regAddr s.w rd) v ∧ KeepsFlags s t ∧ t.w = s.w ∧ t.ext13 = s.ext13 ∧ t.absent = s.absent)

/-- STX and STXZ complete where the form is defined and their registers are present, perform one bus write of `Rs`, at
`x[Ra] + off` and at `off`, and change nothing else but `PC` and `has_ext13`: all of memory reads as before
(44_load_store.md R128, R136, R137, 20_memory.md R44; D6, log 13; D17, log 8). -/
def Obligations.BusStoresWriteTheBus : Prop :=
  ∀ (rs ra : Reg) (s : State), regPresent s rs →
    (∀ off5 : BitVec 5, longOk5 s off5 → regPresent s ra →
      ∃ t, exec (.stx rs ra off5) s = .next t ∧
        t.busLog = s.busLog ++ [.write (regWord s ra + effOff5 s off5) (regWord s rs)] ∧ t.busIn = s.busIn ∧
        SameMemory s t ∧ KeepsFlags s t ∧ t.w = s.w ∧ t.ext13 = s.ext13 ∧ t.absent = s.absent) ∧
    (∀ off8 : BitVec 8, longOk8 s off8 →
      ∃ t, exec (.stxz rs off8) s = .next t ∧
        t.busLog = s.busLog ++ [.write (effOff8 s off8) (regWord s rs)] ∧ t.busIn = s.busIn ∧
        SameMemory s t ∧ KeepsFlags s t ∧ t.w = s.w ∧ t.ext13 = s.ext13 ∧ t.absent = s.absent)

/-! ## Moves and the immediate prefix -/

/-- MOVA completes where the form is defined and `Rd` is present, and writes `pc + 1 + off`, and nothing else but `PC` and
`has_ext13` (45_move_exti.md R140). -/
def Obligations.MovaWritesAnAddress : Prop :=
  ∀ (rd : Reg) (off8 : BitVec 8) (s : State), longOk8 s off8 → regPresent s rd →
    WritesRegister (.mova rd off8) s rd (s.pc + 1#16 + effOff8 s off8) (KeepsFlags s)

/-- MOVI has the word of its rule, completes where the form is defined and `Rd` is present, and writes the constant: in the
long form `ext13` above the low three bits of the field, in the short form the field as a signed number; a long form with a
bit set above bit 2 is refused; no flag is written (45_move_exti.md R141). -/
def Obligations.MoviWritesAConstant : Prop :=
  ∀ (rd : Reg) (imm8 : BitVec 8) (s : State), decode (0b10001#5 ++ rd ++ imm8) = .ok (.movi rd imm8) ∧
    (regPresent s rd →
      (s.hasExt13 = false → ∃ v : Word, v.toInt = imm8.toInt ∧ WritesRegister (.movi rd imm8) s rd v (KeepsFlags s)) ∧
      (s.hasExt13 = true → imm8.toNat < 8 →
        WritesRegister (.movi rd imm8) s rd (BitVec.ofNat 16 (s.ext13.toNat * 8 + imm8.toNat)) (KeepsFlags s))) ∧
    (s.hasExt13 = true → 8 ≤ imm8.toNat → exec (.movi rd imm8) s = .refused .longFormUpperBits)

/-- EXTI completes in every state, makes its field the pending extension, advances `PC` and changes nothing else
(45_move_exti.md R142). -/
def Obligations.ExtiSetsTheExtension : Prop :=
  ∀ (imm13 : BitVec 13) (s : State), ∃ t, exec (.exti imm13) s = .next t ∧ t.ext13 = imm13 ∧ t.hasExt13 = true ∧
    t.pc = s.pc + 1#16 ∧ SameMemory s t ∧ KeepsFlags s t ∧ t.w = s.w ∧ t.absent = s.absent ∧ t.busIn = s.busIn ∧
    t.busLog = s.busLog

/-- In a long form an instruction whose field is wider than three bits is refused when a bit above bit 2 is set, jumps that
would not be taken and JN among them; the ALU immediates and ADJW, whose field has three bits, have no such restriction:
they complete wherever the words they touch are present (30_encoding.md R71). -/
def Obligations.LongFormWithUpperBitsIsRefused : Prop :=
  ∀ (r ra : Reg) (s : State), s.hasExt13 = true →
    (∀ off5 : BitVec 5, 8 ≤ off5.toNat →
      ∀ i ∈ [Instr.ld r ra off5, .ldi r ra off5, .ldx r ra off5, .st r ra off5, .sti r ra off5, .stx r ra off5],
        exec i s = .refused .longFormUpperBits) ∧
    (∀ off8 : BitVec 8, 8 ≤ off8.toNat →
      ∀ i ∈ [Instr.ldxz r off8, .stxz r off8, .mova r off8, .movi r off8, .jal r off8, .j off8, .jn off8, .jz off8,
          .je off8, .jnz off8, .jne off8, .js off8, .jns off8, .jc off8, .jnc off8, .jo off8, .jno off8, .juge off8,
          .jugt off8, .jule off8, .jult off8, .jsge off8, .jsgt off8, .jsle off8, .jslt off8],
        exec i s = .refused .longFormUpperBits) ∧
    (∀ imm3 : BitVec 3,
      ∀ i ∈ [Instr.andi r ra imm3, .ori r ra imm3, .xori r ra imm3, .cmpi ra imm3, .addi r ra imm3, .adci r ra imm3,
          .subi r ra imm3, .sbbi r ra imm3, .adjw1 imm3, .adjw2 r imm3],
        (∀ a ∈ accessedAt i s, memPresent s a = true) → ∃ t, exec i s = .next t)

/-- Every 16-bit value is reached by a long form: EXTI with `v[15:3]` and then MOVI or ADDI with `v[2:0]`, whatever was
pending before (30_encoding.md R70, 45_move_exti.md R144; D12, log 12). -/
def Obligations.LongFormsReachEveryValue : Prop :=
  ∀ (v : Word) (rd ra : Reg) (s : State), regPresent s rd → regPresent s ra →
    (∃ t, runInstrs (longPair v fun low => .movi rd (0#5 ++ low)) s = .next t ∧ regWord t rd = v ∧
      t.hasExt13 = false) ∧
    (∃ t, runInstrs (longPair v fun low => .addi rd ra low) s = .next t ∧ regWord t rd = regWord s ra + v ∧
      t.hasExt13 = false)

/-! ## Jumps -/

/-- J and JN complete where the form is defined: J goes to `pc + 1 + off`, JN to `pc + 1`, and neither changes anything
else but `has_ext13` (46_jump.md R145, R147, R150; D5, log 13). -/
def Obligations.AlwaysAndNeverJump : Prop :=
  ∀ (off8 : BitVec 8) (s : State), longOk8 s off8 →
    JumpsTo (.j off8) s (s.pc + 1#16 + effOff8 s off8) ∧ JumpsTo (.jn off8) s (s.pc + 1#16)

/-- The jumps on one flag, and their other spellings, are taken exactly when the flag has the value named
(46_jump.md R145, R151 to R161, R164). -/
def Obligations.SingleFlagJumps : Prop :=
  ∀ (off8 : BitVec 8) (s : State) (target : Bool → Word), longOk8 s off8 →
    (∀ b, target b = if b then s.pc + 1#16 + effOff8 s off8 else s.pc + 1#16) →
    JumpsTo (.jz off8) s (target s.flags.z) ∧ JumpsTo (.je off8) s (target s.flags.z) ∧
    JumpsTo (.jnz off8) s (target (!s.flags.z)) ∧ JumpsTo (.jne off8) s (target (!s.flags.z)) ∧
    JumpsTo (.js off8) s (target s.flags.s) ∧ JumpsTo (.jns off8) s (target (!s.flags.s)) ∧
    JumpsTo (.jc off8) s (target s.flags.c) ∧ JumpsTo (.juge off8) s (target s.flags.c) ∧
    JumpsTo (.jnc off8) s (target (!s.flags.c)) ∧ JumpsTo (.jult off8) s (target (!s.flags.c)) ∧
    JumpsTo (.jo off8) s (target s.flags.v) ∧ JumpsTo (.jno off8) s (target (!s.flags.v))

/-- The jumps on two or three flags are taken exactly when the condition of their rule holds (46_jump.md R145, R162, R163,
R165 to R168; JUGT and JULE by D11 and C3, log 18). -/
def Obligations.CombinedFlagJumps : Prop :=
  ∀ (off8 : BitVec 8) (s : State) (target : Bool → Word), longOk8 s off8 →
    (∀ b, target b = if b then s.pc + 1#16 + effOff8 s off8 else s.pc + 1#16) →
    JumpsTo (.jugt off8) s (target (s.flags.c && !s.flags.z)) ∧
    JumpsTo (.jule off8) s (target (!s.flags.c || s.flags.z)) ∧
    JumpsTo (.jsge off8) s (target (s.flags.s == s.flags.v)) ∧
    JumpsTo (.jslt off8) s (target (s.flags.s != s.flags.v)) ∧
    JumpsTo (.jsgt off8) s (target (s.flags.s == s.flags.v && !s.flags.z)) ∧
    JumpsTo (.jsle off8) s (target (s.flags.s != s.flags.v || s.flags.z))

/-- After CMP Ra, Rb each jump is taken exactly when its name's comparison holds of the two registers, unsigned or signed
(46_jump.md R151 to R169, 40_arithmetic.md R91; JUGT and JULE by D11 and C3, log 18). -/
def Obligations.CompareThenJumpComparesTheRegisters : Prop :=
  ∀ (ra rb : Reg) (off8 : BitVec 8) (s : State), regPresent s ra → regPresent s rb →
    ∀ (i : Instr) (holds : Prop),
      (i, holds) ∈ [(Instr.je off8, regWord s ra = regWord s rb), (.jz off8, regWord s ra = regWord s rb),
        (.jne off8, regWord s ra ≠ regWord s rb), (.jnz off8, regWord s ra ≠ regWord s rb),
        (.juge off8, (regWord s rb).toNat ≤ (regWord s ra).toNat), (.jc off8, (regWord s rb).toNat ≤ (regWord s ra).toNat),
        (.jugt off8, (regWord s rb).toNat < (regWord s ra).toNat),
        (.jule off8, (regWord s ra).toNat ≤ (regWord s rb).toNat),
        (.jult off8, (regWord s ra).toNat < (regWord s rb).toNat), (.jnc off8, (regWord s ra).toNat < (regWord s rb).toNat),
        (.jsge off8, (regWord s rb).toInt ≤ (regWord s ra).toInt), (.jsgt off8, (regWord s rb).toInt < (regWord s ra).toInt),
        (.jsle off8, (regWord s ra).toInt ≤ (regWord s rb).toInt),
        (.jslt off8, (regWord s ra).toInt < (regWord s rb).toInt)] →
      ∃ t, runInstrs [.cmp ra rb, i] s = .next t ∧ SameMemory s t ∧
        (holds → t.pc = s.pc + 2#16 + off8.signExtend 16) ∧ (¬ holds → t.pc = s.pc + 2#16)

/-- JAL completes where the form is defined and `Rd` is present, writes `pc + 1` to `Rd`, goes to `pc + 1 + off`, and changes
nothing else but `has_ext13` (46_jump.md R145, R148; D5, log 13). -/
def Obligations.JumpAndLinkWritesTheLink : Prop :=
  ∀ (rd : Reg) (off8 : BitVec 8) (s : State), longOk8 s off8 → regPresent s rd →
    WritesRegister (.jal rd off8) s rd (s.pc + 1#16)
      (fun t => t.pc = s.pc + 1#16 + effOff8 s off8 ∧ KeepsFlags s t)

/-- The eight JR words decode to JR; without a pending extension JR goes to the whole register and changes nothing else but
`has_ext13`; with one it is refused (30_encoding.md R77, 46_jump.md R149; D10, log 16). -/
def Obligations.JumpRegister : Prop :=
  ∀ (ra : Reg) (s : State), decode (0xB800#16 + BitVec.ofNat 16 (ra.toNat * 256)) = .ok (.jr ra) ∧
    (s.hasExt13 = false → regPresent s ra → JumpsTo (.jr ra) s (regWord s ra)) ∧
    (s.hasExt13 = true → exec (.jr ra) s = .refused .jrAfterExti)

/-- JAL and then JR through the same register come back to the word after the JAL (46_jump.md R148, R149, R170; D10,
log 16). -/
def Obligations.CallThenReturnComesBack : Prop :=
  ∀ (rd : Reg) (off8 : BitVec 8) (s : State), longOk8 s off8 → regPresent s rd →
    ∃ t u, exec (.jal rd off8) s = .next t ∧ exec (.jr rd) t = .next u ∧ u.pc = s.pc + 1#16

/-- Two words at `PC`, EXTI and J as the assembler lays them out for a label, take the machine to the label in two steps,
for every label whose offset is no multiple of 8 (30_encoding.md R70, R77, R78, 46_jump.md R147; D8, D10, logs 14 and
16). -/
def Obligations.LongJumpReachesItsLabel : Prop :=
  ∀ (label : Word) (s : State), memPresent s s.pc = true → memPresent s (s.pc + 1#16) = true →
    (label - (s.pc + 2#16)).toNat % 8 ≠ 0 →
    memWord s.mem s.pc = BitVec.ofNat 16 (0xC000 + (label - (s.pc + 2#16)).toNat / 8) →
    memWord s.mem (s.pc + 1#16) = BitVec.ofNat 16 (0xBF00 + (label - (s.pc + 2#16)).toNat % 8) →
    ∃ t, Host.Core.run Sys2Proof.core 2 s = .next t ∧ t.pc = label ∧ t.hasExt13 = false ∧ SameMemory s t

/-! ## Translations -/

/-- XCHG's three XORs exchange two registers and leave every other byte of memory as it was; `Z` and `S` are those of the
first register's final value. With one register it is no instruction at all (47_pseudo.md R181). -/
def Obligations.ExchangeSwapsTheRegisters : Prop :=
  ∀ (ra rb : Reg) (s : State), regPresent s ra → regPresent s rb →
    (ra = rb → expand (.xchg ra rb) = []) ∧
    (ra ≠ rb → ∃ t, runInstrs (expand (.xchg ra rb)) s = .next t ∧ regWord t ra = regWord s rb ∧
      regWord t rb = regWord s ra ∧ LogicFlagsSay (regWord s rb) t.flags ∧ KeepsWindowAndBus s t ∧
      ∀ k, k ≠ lowCell (regAddr s.w ra) → k ≠ highCell (regAddr s.w ra) → k ≠ lowCell (regAddr s.w rb) →
        k ≠ highCell (regAddr s.w rb) → readByte t.mem k = readByte s.mem k)
end

