-- ==== Sys2Proof/Laws/Memory.lean ====
section
/-! SUPPORT. What the memory operations do, said once: a cell, a word, and the canonical form. -/

namespace Sys2Proof.Machine

/-! ## Cells -/

theorem Memory.stored_put (m : Memory) (a : Nat) (v : Byte) (k : Nat) :
    Memory.stored (Memory.put m a v) k = if k = a then some v else Memory.stored m k := by
  induction m with
  | nil => simp [Memory.put, Memory.stored]
  | cons x m ih =>
    obtain ⟨i, b⟩ := x
    simp only [Memory.put]
    split
    · simp [Memory.stored]
    · split
      · subst a
        simp only [Memory.stored]
        split <;> simp_all
      · simp only [Memory.stored, ih]
        split <;> split <;> simp_all

theorem readByte_put (m : Memory) (a : Nat) (v : Byte) (k : Nat) :
    readByte (Memory.put m a v) k = if k = a then v else readByte m k := by
  unfold readByte
  rw [Memory.stored_put]
  split <;> rfl

/-- A cell of the new memory is the cell put there or a cell of the old one. -/
theorem Memory.mem_put {m : Memory} {a : Nat} {v : Byte} {x : Host.Cell} (h : x ∈ Memory.put m a v) :
    x = (a, v) ∨ x ∈ m := by
  induction m with
  | nil => simpa [Memory.put] using h
  | cons y m ih =>
    obtain ⟨i, b⟩ := y
    simp only [Memory.put] at h
    split at h
    · simpa using h
    · split at h
      · simp only [List.mem_cons] at h ⊢
        tauto
      · simp only [List.mem_cons] at h ⊢
        rcases h with h | h
        · exact .inr (.inl h)
        · rcases ih h with h | h
          · exact .inl h
          · exact .inr (.inr h)

theorem Memory.put_wf {m : Memory} {a : Nat} (v : Byte) (h : Memory.wf m) (ha : a < memoryCells) :
    Memory.wf (Memory.put m a v) := by
  refine ⟨?_, fun x hx => ?_⟩
  · have hm := h.1
    clear h ha
    induction m with
    | nil => simp [Memory.put]
    | cons y m ih =>
      obtain ⟨i, b⟩ := y
      rw [List.pairwise_cons] at hm
      simp only [Memory.put]
      split
      next hlt =>
        rw [List.pairwise_cons, List.pairwise_cons]
        refine ⟨fun x hx => ?_, hm⟩
        rcases List.mem_cons.mp hx with rfl | hx
        · exact hlt
        · exact Nat.lt_trans hlt (hm.1 x hx)
      next hlt =>
        split
        next heq =>
          subst heq
          exact List.pairwise_cons.mpr hm
        next hne =>
          refine List.pairwise_cons.mpr ⟨fun x hx => ?_, ih hm.2⟩
          rcases Memory.mem_put hx with rfl | hx
          · exact Nat.lt_of_le_of_ne (Nat.le_of_not_lt hlt) (Ne.symm hne)
          · exact hm.1 x hx
  · rcases Memory.mem_put hx with rfl | hx
    · exact ha
    · exact h.2 x hx

/-! ## Words -/

theorem lowCell_lt (a : Word) : lowCell a < memoryCells := by
  have := a.isLt
  unfold lowCell memoryCells
  omega

theorem highCell_lt (a : Word) : highCell a < memoryCells := by
  have := a.isLt
  unfold highCell memoryCells
  omega

theorem lowCell_inj {a b : Word} : lowCell a = lowCell b ↔ a = b := by
  unfold lowCell
  rw [← BitVec.toNat_inj]
  omega

theorem highCell_inj {a b : Word} : highCell a = highCell b ↔ a = b := by
  unfold highCell
  rw [← BitVec.toNat_inj]
  omega

theorem lowCell_ne_highCell (a b : Word) : lowCell a ≠ highCell b := by
  unfold lowCell highCell
  omega

theorem readByte_putWord (m : Memory) (a v : Word) (k : Nat) :
    readByte (putWord m a v) k =
      if k = highCell a then v.extractLsb' 8 8 else if k = lowCell a then v.extractLsb' 0 8 else readByte m k := by
  simp only [putWord, readByte_put]

/-- A byte outside the stored word reads as before. -/
theorem readByte_putWord_other (m : Memory) (a v : Word) {k : Nat} (hl : k ≠ lowCell a) (hh : k ≠ highCell a) :
    readByte (putWord m a v) k = readByte m k := by
  rw [readByte_putWord, if_neg hh, if_neg hl]

/-- The two halves of a word make the word. -/
theorem high_append_low (v : Word) : (v.extractLsb' 8 8 ++ v.extractLsb' 0 8 : Word) = v := by
  apply BitVec.eq_of_getLsbD_eq
  intro i hi
  rw [BitVec.getLsbD_append]
  by_cases h : i < 8
  · simp [h]
  · have h8 : i - 8 < 8 := by omega
    have hs : 8 + (i - 8) = i := by omega
    simp [h, h8, hs]

/-- Read after write, of words. -/
theorem memWord_putWord (m : Memory) (a v b : Word) :
    memWord (putWord m a v) b = if b = a then v else memWord m b := by
  unfold memWord
  rw [readByte_putWord, readByte_putWord]
  by_cases h : b = a
  · subst h
    simp [lowCell_ne_highCell, high_append_low]
  · simp [h, highCell_inj, lowCell_inj, lowCell_ne_highCell, (lowCell_ne_highCell _ _).symm]

@[simp] theorem memWord_putWord_same (m : Memory) (a v : Word) : memWord (putWord m a v) a = v := by
  rw [memWord_putWord, if_pos rfl]

theorem memWord_putWord_other (m : Memory) {a b : Word} (v : Word) (h : b ≠ a) :
    memWord (putWord m a v) b = memWord m b := by
  rw [memWord_putWord, if_neg h]

theorem putWord_wf {m : Memory} (a v : Word) (h : Memory.wf m) : Memory.wf (putWord m a v) :=
  Memory.put_wf _ (Memory.put_wf _ h (lowCell_lt a)) (highCell_lt a)

/-! ## Register addresses -/

theorem regAddr_toNat (w : Window) (i : Reg) : (regAddr w i).toNat = w.toNat * 8 + i.toNat := by
  have h : i.toNat < 2 ^ 3 := i.isLt
  unfold regAddr
  rw [BitVec.toNat_append, Nat.shiftLeft_eq, Nat.mul_comm, ← Nat.two_pow_add_eq_or_of_lt h, Nat.mul_comm]

end Sys2Proof.Machine
end

