-- ==== Sys2Proof/Laws/State.lean ====
section
/-! SUPPORT. One lemma per field per update of State, so that no proof unfolds a record update. -/

namespace Sys2Proof.Machine

@[simp] theorem State.setMem_mem (s : State) (m : Memory) : (s.setMem m).mem = m := rfl
@[simp] theorem State.setMem_w (s : State) (m : Memory) : (s.setMem m).w = s.w := rfl
@[simp] theorem State.setMem_pc (s : State) (m : Memory) : (s.setMem m).pc = s.pc := rfl
@[simp] theorem State.setMem_flags (s : State) (m : Memory) : (s.setMem m).flags = s.flags := rfl
@[simp] theorem State.setMem_ext13 (s : State) (m : Memory) : (s.setMem m).ext13 = s.ext13 := rfl
@[simp] theorem State.setMem_hasExt13 (s : State) (m : Memory) : (s.setMem m).hasExt13 = s.hasExt13 := rfl
@[simp] theorem State.setMem_absent (s : State) (m : Memory) : (s.setMem m).absent = s.absent := rfl
@[simp] theorem State.setMem_busIn (s : State) (m : Memory) : (s.setMem m).busIn = s.busIn := rfl
@[simp] theorem State.setMem_busLog (s : State) (m : Memory) : (s.setMem m).busLog = s.busLog := rfl
@[simp] theorem State.setMem_draws (s : State) (m : Memory) : (s.setMem m).draws = s.draws := rfl

@[simp] theorem State.setW_mem (s : State) (x : Window) : (s.setW x).mem = s.mem := rfl
@[simp] theorem State.setW_w (s : State) (x : Window) : (s.setW x).w = x := rfl
@[simp] theorem State.setW_pc (s : State) (x : Window) : (s.setW x).pc = s.pc := rfl
@[simp] theorem State.setW_flags (s : State) (x : Window) : (s.setW x).flags = s.flags := rfl
@[simp] theorem State.setW_ext13 (s : State) (x : Window) : (s.setW x).ext13 = s.ext13 := rfl
@[simp] theorem State.setW_hasExt13 (s : State) (x : Window) : (s.setW x).hasExt13 = s.hasExt13 := rfl
@[simp] theorem State.setW_absent (s : State) (x : Window) : (s.setW x).absent = s.absent := rfl
@[simp] theorem State.setW_busIn (s : State) (x : Window) : (s.setW x).busIn = s.busIn := rfl
@[simp] theorem State.setW_busLog (s : State) (x : Window) : (s.setW x).busLog = s.busLog := rfl
@[simp] theorem State.setW_draws (s : State) (x : Window) : (s.setW x).draws = s.draws := rfl

@[simp] theorem State.setPc_mem (s : State) (x : Word) : (s.setPc x).mem = s.mem := rfl
@[simp] theorem State.setPc_w (s : State) (x : Word) : (s.setPc x).w = s.w := rfl
@[simp] theorem State.setPc_pc (s : State) (x : Word) : (s.setPc x).pc = x := rfl
@[simp] theorem State.setPc_flags (s : State) (x : Word) : (s.setPc x).flags = s.flags := rfl
@[simp] theorem State.setPc_ext13 (s : State) (x : Word) : (s.setPc x).ext13 = s.ext13 := rfl
@[simp] theorem State.setPc_hasExt13 (s : State) (x : Word) : (s.setPc x).hasExt13 = s.hasExt13 := rfl
@[simp] theorem State.setPc_absent (s : State) (x : Word) : (s.setPc x).absent = s.absent := rfl
@[simp] theorem State.setPc_busIn (s : State) (x : Word) : (s.setPc x).busIn = s.busIn := rfl
@[simp] theorem State.setPc_busLog (s : State) (x : Word) : (s.setPc x).busLog = s.busLog := rfl
@[simp] theorem State.setPc_draws (s : State) (x : Word) : (s.setPc x).draws = s.draws := rfl

@[simp] theorem State.setFlags_mem (s : State) (f : Flags) : (s.setFlags f).mem = s.mem := rfl
@[simp] theorem State.setFlags_w (s : State) (f : Flags) : (s.setFlags f).w = s.w := rfl
@[simp] theorem State.setFlags_pc (s : State) (f : Flags) : (s.setFlags f).pc = s.pc := rfl
@[simp] theorem State.setFlags_flags (s : State) (f : Flags) : (s.setFlags f).flags = f := rfl
@[simp] theorem State.setFlags_ext13 (s : State) (f : Flags) : (s.setFlags f).ext13 = s.ext13 := rfl
@[simp] theorem State.setFlags_hasExt13 (s : State) (f : Flags) : (s.setFlags f).hasExt13 = s.hasExt13 := rfl
@[simp] theorem State.setFlags_absent (s : State) (f : Flags) : (s.setFlags f).absent = s.absent := rfl
@[simp] theorem State.setFlags_busIn (s : State) (f : Flags) : (s.setFlags f).busIn = s.busIn := rfl
@[simp] theorem State.setFlags_busLog (s : State) (f : Flags) : (s.setFlags f).busLog = s.busLog := rfl
@[simp] theorem State.setFlags_draws (s : State) (f : Flags) : (s.setFlags f).draws = s.draws := rfl

@[simp] theorem State.setExt13_mem (s : State) (x : BitVec 13) : (s.setExt13 x).mem = s.mem := rfl
@[simp] theorem State.setExt13_w (s : State) (x : BitVec 13) : (s.setExt13 x).w = s.w := rfl
@[simp] theorem State.setExt13_pc (s : State) (x : BitVec 13) : (s.setExt13 x).pc = s.pc := rfl
@[simp] theorem State.setExt13_flags (s : State) (x : BitVec 13) : (s.setExt13 x).flags = s.flags := rfl
@[simp] theorem State.setExt13_ext13 (s : State) (x : BitVec 13) : (s.setExt13 x).ext13 = x := rfl
@[simp] theorem State.setExt13_hasExt13 (s : State) (x : BitVec 13) : (s.setExt13 x).hasExt13 = s.hasExt13 := rfl
@[simp] theorem State.setExt13_absent (s : State) (x : BitVec 13) : (s.setExt13 x).absent = s.absent := rfl
@[simp] theorem State.setExt13_busIn (s : State) (x : BitVec 13) : (s.setExt13 x).busIn = s.busIn := rfl
@[simp] theorem State.setExt13_busLog (s : State) (x : BitVec 13) : (s.setExt13 x).busLog = s.busLog := rfl
@[simp] theorem State.setExt13_draws (s : State) (x : BitVec 13) : (s.setExt13 x).draws = s.draws := rfl

@[simp] theorem State.setHasExt13_mem (s : State) (b : Bool) : (s.setHasExt13 b).mem = s.mem := rfl
@[simp] theorem State.setHasExt13_w (s : State) (b : Bool) : (s.setHasExt13 b).w = s.w := rfl
@[simp] theorem State.setHasExt13_pc (s : State) (b : Bool) : (s.setHasExt13 b).pc = s.pc := rfl
@[simp] theorem State.setHasExt13_flags (s : State) (b : Bool) : (s.setHasExt13 b).flags = s.flags := rfl
@[simp] theorem State.setHasExt13_ext13 (s : State) (b : Bool) : (s.setHasExt13 b).ext13 = s.ext13 := rfl
@[simp] theorem State.setHasExt13_hasExt13 (s : State) (b : Bool) : (s.setHasExt13 b).hasExt13 = b := rfl
@[simp] theorem State.setHasExt13_absent (s : State) (b : Bool) : (s.setHasExt13 b).absent = s.absent := rfl
@[simp] theorem State.setHasExt13_busIn (s : State) (b : Bool) : (s.setHasExt13 b).busIn = s.busIn := rfl
@[simp] theorem State.setHasExt13_busLog (s : State) (b : Bool) : (s.setHasExt13 b).busLog = s.busLog := rfl
@[simp] theorem State.setHasExt13_draws (s : State) (b : Bool) : (s.setHasExt13 b).draws = s.draws := rfl

@[simp] theorem State.setAbsent_mem (s : State) (r : List Region) : (s.setAbsent r).mem = s.mem := rfl
@[simp] theorem State.setAbsent_w (s : State) (r : List Region) : (s.setAbsent r).w = s.w := rfl
@[simp] theorem State.setAbsent_pc (s : State) (r : List Region) : (s.setAbsent r).pc = s.pc := rfl
@[simp] theorem State.setAbsent_flags (s : State) (r : List Region) : (s.setAbsent r).flags = s.flags := rfl
@[simp] theorem State.setAbsent_ext13 (s : State) (r : List Region) : (s.setAbsent r).ext13 = s.ext13 := rfl
@[simp] theorem State.setAbsent_hasExt13 (s : State) (r : List Region) : (s.setAbsent r).hasExt13 = s.hasExt13 := rfl
@[simp] theorem State.setAbsent_absent (s : State) (r : List Region) : (s.setAbsent r).absent = r := rfl
@[simp] theorem State.setAbsent_busIn (s : State) (r : List Region) : (s.setAbsent r).busIn = s.busIn := rfl
@[simp] theorem State.setAbsent_busLog (s : State) (r : List Region) : (s.setAbsent r).busLog = s.busLog := rfl
@[simp] theorem State.setAbsent_draws (s : State) (r : List Region) : (s.setAbsent r).draws = s.draws := rfl

@[simp] theorem State.setBusIn_mem (s : State) (ws : List Word) : (s.setBusIn ws).mem = s.mem := rfl
@[simp] theorem State.setBusIn_w (s : State) (ws : List Word) : (s.setBusIn ws).w = s.w := rfl
@[simp] theorem State.setBusIn_pc (s : State) (ws : List Word) : (s.setBusIn ws).pc = s.pc := rfl
@[simp] theorem State.setBusIn_flags (s : State) (ws : List Word) : (s.setBusIn ws).flags = s.flags := rfl
@[simp] theorem State.setBusIn_ext13 (s : State) (ws : List Word) : (s.setBusIn ws).ext13 = s.ext13 := rfl
@[simp] theorem State.setBusIn_hasExt13 (s : State) (ws : List Word) : (s.setBusIn ws).hasExt13 = s.hasExt13 := rfl
@[simp] theorem State.setBusIn_absent (s : State) (ws : List Word) : (s.setBusIn ws).absent = s.absent := rfl
@[simp] theorem State.setBusIn_busIn (s : State) (ws : List Word) : (s.setBusIn ws).busIn = ws := rfl
@[simp] theorem State.setBusIn_busLog (s : State) (ws : List Word) : (s.setBusIn ws).busLog = s.busLog := rfl
@[simp] theorem State.setBusIn_draws (s : State) (ws : List Word) : (s.setBusIn ws).draws = s.draws := rfl

@[simp] theorem State.setBusLog_mem (s : State) (es : List BusEvent) : (s.setBusLog es).mem = s.mem := rfl
@[simp] theorem State.setBusLog_w (s : State) (es : List BusEvent) : (s.setBusLog es).w = s.w := rfl
@[simp] theorem State.setBusLog_pc (s : State) (es : List BusEvent) : (s.setBusLog es).pc = s.pc := rfl
@[simp] theorem State.setBusLog_flags (s : State) (es : List BusEvent) : (s.setBusLog es).flags = s.flags := rfl
@[simp] theorem State.setBusLog_ext13 (s : State) (es : List BusEvent) : (s.setBusLog es).ext13 = s.ext13 := rfl
@[simp] theorem State.setBusLog_hasExt13 (s : State) (es : List BusEvent) : (s.setBusLog es).hasExt13 = s.hasExt13 := rfl
@[simp] theorem State.setBusLog_absent (s : State) (es : List BusEvent) : (s.setBusLog es).absent = s.absent := rfl
@[simp] theorem State.setBusLog_busIn (s : State) (es : List BusEvent) : (s.setBusLog es).busIn = s.busIn := rfl
@[simp] theorem State.setBusLog_busLog (s : State) (es : List BusEvent) : (s.setBusLog es).busLog = es := rfl
@[simp] theorem State.setBusLog_draws (s : State) (es : List BusEvent) : (s.setBusLog es).draws = s.draws := rfl

@[simp] theorem State.setDraws_mem (s : State) (n : Nat) : (s.setDraws n).mem = s.mem := rfl
@[simp] theorem State.setDraws_w (s : State) (n : Nat) : (s.setDraws n).w = s.w := rfl
@[simp] theorem State.setDraws_pc (s : State) (n : Nat) : (s.setDraws n).pc = s.pc := rfl
@[simp] theorem State.setDraws_flags (s : State) (n : Nat) : (s.setDraws n).flags = s.flags := rfl
@[simp] theorem State.setDraws_ext13 (s : State) (n : Nat) : (s.setDraws n).ext13 = s.ext13 := rfl
@[simp] theorem State.setDraws_hasExt13 (s : State) (n : Nat) : (s.setDraws n).hasExt13 = s.hasExt13 := rfl
@[simp] theorem State.setDraws_absent (s : State) (n : Nat) : (s.setDraws n).absent = s.absent := rfl
@[simp] theorem State.setDraws_busIn (s : State) (n : Nat) : (s.setDraws n).busIn = s.busIn := rfl
@[simp] theorem State.setDraws_busLog (s : State) (n : Nat) : (s.setDraws n).busLog = s.busLog := rfl
@[simp] theorem State.setDraws_draws (s : State) (n : Nat) : (s.setDraws n).draws = n := rfl

@[simp] theorem jumpTo_mem (s : State) (x : Word) : (jumpTo s x).mem = s.mem := rfl
@[simp] theorem jumpTo_w (s : State) (x : Word) : (jumpTo s x).w = s.w := rfl
@[simp] theorem jumpTo_pc (s : State) (x : Word) : (jumpTo s x).pc = x := rfl
@[simp] theorem jumpTo_flags (s : State) (x : Word) : (jumpTo s x).flags = s.flags := rfl
@[simp] theorem jumpTo_ext13 (s : State) (x : Word) : (jumpTo s x).ext13 = s.ext13 := rfl
@[simp] theorem jumpTo_hasExt13 (s : State) (x : Word) : (jumpTo s x).hasExt13 = false := rfl
@[simp] theorem jumpTo_absent (s : State) (x : Word) : (jumpTo s x).absent = s.absent := rfl
@[simp] theorem jumpTo_busIn (s : State) (x : Word) : (jumpTo s x).busIn = s.busIn := rfl
@[simp] theorem jumpTo_busLog (s : State) (x : Word) : (jumpTo s x).busLog = s.busLog := rfl
@[simp] theorem jumpTo_draws (s : State) (x : Word) : (jumpTo s x).draws = s.draws := rfl

@[simp] theorem retire_mem (s : State) : (retire s).mem = s.mem := rfl
@[simp] theorem retire_w (s : State) : (retire s).w = s.w := rfl
@[simp] theorem retire_pc (s : State) : (retire s).pc = s.pc + 1#16 := rfl
@[simp] theorem retire_flags (s : State) : (retire s).flags = s.flags := rfl
@[simp] theorem retire_ext13 (s : State) : (retire s).ext13 = s.ext13 := rfl
@[simp] theorem retire_hasExt13 (s : State) : (retire s).hasExt13 = false := rfl
@[simp] theorem retire_absent (s : State) : (retire s).absent = s.absent := rfl
@[simp] theorem retire_busIn (s : State) : (retire s).busIn = s.busIn := rfl
@[simp] theorem retire_busLog (s : State) : (retire s).busLog = s.busLog := rfl
@[simp] theorem retire_draws (s : State) : (retire s).draws = s.draws := rfl

@[simp] theorem extRead_mem (s : State) (a : Word) : (extRead s a).mem = s.mem := rfl
@[simp] theorem extRead_w (s : State) (a : Word) : (extRead s a).w = s.w := rfl
@[simp] theorem extRead_pc (s : State) (a : Word) : (extRead s a).pc = s.pc := rfl
@[simp] theorem extRead_flags (s : State) (a : Word) : (extRead s a).flags = s.flags := rfl
@[simp] theorem extRead_ext13 (s : State) (a : Word) : (extRead s a).ext13 = s.ext13 := rfl
@[simp] theorem extRead_hasExt13 (s : State) (a : Word) : (extRead s a).hasExt13 = s.hasExt13 := rfl
@[simp] theorem extRead_absent (s : State) (a : Word) : (extRead s a).absent = s.absent := rfl
@[simp] theorem extRead_busIn (s : State) (a : Word) : (extRead s a).busIn = s.busIn.tail := rfl
@[simp] theorem extRead_busLog (s : State) (a : Word) : (extRead s a).busLog = s.busLog ++ [.read a (busAnswer s a)] := rfl
@[simp] theorem extRead_draws (s : State) (a : Word) : (extRead s a).draws = s.draws := rfl

@[simp] theorem extWrite_mem (s : State) (a v : Word) : (extWrite s a v).mem = s.mem := rfl
@[simp] theorem extWrite_w (s : State) (a v : Word) : (extWrite s a v).w = s.w := rfl
@[simp] theorem extWrite_pc (s : State) (a v : Word) : (extWrite s a v).pc = s.pc := rfl
@[simp] theorem extWrite_flags (s : State) (a v : Word) : (extWrite s a v).flags = s.flags := rfl
@[simp] theorem extWrite_ext13 (s : State) (a v : Word) : (extWrite s a v).ext13 = s.ext13 := rfl
@[simp] theorem extWrite_hasExt13 (s : State) (a v : Word) : (extWrite s a v).hasExt13 = s.hasExt13 := rfl
@[simp] theorem extWrite_absent (s : State) (a v : Word) : (extWrite s a v).absent = s.absent := rfl
@[simp] theorem extWrite_busIn (s : State) (a v : Word) : (extWrite s a v).busIn = s.busIn := rfl
@[simp] theorem extWrite_busLog (s : State) (a v : Word) : (extWrite s a v).busLog = s.busLog ++ [.write a v] := rfl
@[simp] theorem extWrite_draws (s : State) (a v : Word) : (extWrite s a v).draws = s.draws := rfl

end Sys2Proof.Machine
end

