-- ==== Sys2Proof/Laws/Ops.lean ====
section
/-! SUPPORT. One lemma per shared operation that says once what it can do: each is cited in place of unfolding it. -/

namespace Sys2Proof.Machine

/-! ## Going on or refusing -/

@[simp] theorem attempt_ok {α : Type} (a : α) (k : α → Result) : attempt (.ok a) k = k a := rfl
@[simp] theorem attempt_error {α : Type} (r : Refusal) (k : α → Result) : attempt (.error r) k = .refused r := rfl

/-- If it answers a next state, the value was there and the rest answered it. -/
theorem attempt_eq_next {α : Type} {x : Except Refusal α} {k : α → Result} {t : State} :
    attempt x k = .next t ↔ ∃ a, x = .ok a ∧ k a = .next t := by
  cases x <;> simp [attempt]

/-! ## Memory and registers -/

theorem memRead_of_present {s : State} {a : Word} (h : memPresent s a = true) : memRead s a = .ok (memWord s.mem a) := by
  simp [memRead, h]

theorem memRead_eq_ok {s : State} {a v : Word} :
    memRead s a = .ok v ↔ memPresent s a = true ∧ v = memWord s.mem a := by
  unfold memRead
  cases memPresent s a <;> simp [eq_comm]

theorem memWrite_of_present {s : State} {a : Word} (v : Word) (h : memPresent s a = true) :
    memWrite s a v = .ok (s.setMem (putWord s.mem a v)) := by
  simp [memWrite, h]

theorem memWrite_eq_ok {s t : State} {a v : Word} :
    memWrite s a v = .ok t ↔ memPresent s a = true ∧ t = s.setMem (putWord s.mem a v) := by
  unfold memWrite
  cases memPresent s a <;> simp [eq_comm]

theorem readReg_eq_ok {s : State} {i : Reg} {v : Word} :
    readReg s i = .ok v ↔ memPresent s (regAddr s.w i) = true ∧ v = memWord s.mem (regAddr s.w i) :=
  memRead_eq_ok

theorem writeReg_eq_ok {s t : State} {i : Reg} {v : Word} :
    writeReg s i v = .ok t ↔
      memPresent s (regAddr s.w i) = true ∧ t = s.setMem (putWord s.mem (regAddr s.w i) v) :=
  memWrite_eq_ok

/-- Presence depends on the configuration alone. -/
theorem memPresent_congr {s t : State} (h : t.absent = s.absent) (a : Word) : memPresent t a = memPresent s a := by
  simp [memPresent, h]

/-! ## Offsets -/

theorem offM5_eq_ok {s : State} {f : BitVec 5} {off : Word} :
    offM5 s f = .ok off ↔
      (s.hasExt13 = true ∧ f.extractLsb' 3 2 = 0#2 ∧ off = s.ext13 ++ f.extractLsb' 0 3) ∨
      (s.hasExt13 = false ∧ off = f.signExtend 16) := by
  unfold offM5 longImm sext5
  cases s.hasExt13
  · simp [eq_comm]
  · by_cases h : f.extractLsb' 3 2 = 0#2 <;> simp [h, eq_comm]

theorem offI8_eq_ok {s : State} {f : BitVec 8} {off : Word} :
    offI8 s f = .ok off ↔
      (s.hasExt13 = true ∧ f.extractLsb' 3 5 = 0#5 ∧ off = s.ext13 ++ f.extractLsb' 0 3) ∨
      (s.hasExt13 = false ∧ off = f.signExtend 16) := by
  unfold offI8 longImm sext8
  cases s.hasExt13
  · simp [eq_comm]
  · by_cases h : f.extractLsb' 3 5 = 0#5 <;> simp [h, eq_comm]

theorem shiftAmountReg_eq_ok {v : Word} {n : Nat} : shiftAmountReg v = .ok n ↔ v.toNat ≤ 15 ∧ n = v.toNat := by
  unfold shiftAmountReg
  by_cases h : v.toNat ≤ 15 <;> simp [h, eq_comm]

/-! ## Placing a word at `pc` -/

theorem Region.holds_without (r : Region) (a b : Word) :
    (r.without a).any (fun r' => r'.holds b) = (r.holds b && b != a) := by
  have hf := r.first.isLt
  have hl := r.last.isLt
  have ha := a.isLt
  have hb := b.isLt
  by_cases h : r.holds a = true
  · rw [Region.without, if_pos h]
    simp only [Region.holds, Bool.and_eq_true, decide_eq_true_eq, BitVec.le_def] at h
    rw [Bool.eq_iff_iff]
    by_cases h1 : r.first = a <;> by_cases h2 : r.last = a <;>
      (have n1 := h1; have n2 := h2; rw [← BitVec.toNat_inj] at n1 n2
       simp [Region.holds, h1, h2, BitVec.le_def, ← BitVec.toNat_inj, BitVec.toNat_sub, BitVec.toNat_add]
       omega)
  · rw [Region.without, if_neg h]
    simp only [Region.holds, Bool.and_eq_true, decide_eq_true_eq, BitVec.le_def] at h
    rw [Bool.eq_iff_iff]
    simp [Region.holds, BitVec.le_def, ← BitVec.toNat_inj]
    omega

/-- After a word is placed, exactly the word at `pc` has become present. -/
theorem memPresent_placeAtPc (s : State) (w b : Word) :
    memPresent (placeAtPc s w) b = (memPresent s b || b == s.pc) := by
  have h : (s.absent.flatMap fun r => r.without s.pc).any (fun r => r.holds b) =
      (s.absent.any (fun r => r.holds b) && b != s.pc) := by
    induction s.absent with
    | nil => rfl
    | cons r rs ih =>
      rw [List.flatMap_cons, List.any_append, Region.holds_without, ih, List.any_cons]
      cases r.holds b <;> cases b != s.pc <;> simp
  show (!(s.absent.flatMap fun r => r.without s.pc).any (fun r => r.holds b)) = _
  rw [h, memPresent]
  cases s.absent.any (fun r => r.holds b) <;> simp [bne]

/-! ## Fetch and step -/

theorem decodeFetched_eq_ok {w : Word} {i : Instr} : decodeFetched w = .ok i ↔ decode w = .ok i := by
  unfold decodeFetched
  split <;> simp_all

/-- Everything a step can do: the word at `PC` is present, decodes, and its instruction answers. -/
theorem step_eq_next {s t : State} :
    step s = .next t ↔
      memPresent s s.pc = true ∧ ∃ i, decode (memWord s.mem s.pc) = .ok i ∧ exec i s = .next t := by
  unfold step fetchThen
  simp only [attempt_eq_next, memRead_eq_ok, decodeFetched_eq_ok]
  constructor
  · rintro ⟨_, ⟨hp, rfl⟩, i, hi, ht⟩
    exact ⟨hp, i, hi, ht⟩
  · rintro ⟨hp, i, hi, ht⟩
    exact ⟨_, ⟨hp, rfl⟩, i, hi, ht⟩

end Sys2Proof.Machine
end

