-- ==== Sys2Proof/Laws/Families.lean ====
section
/-! SUPPORT. What the shared ends of the instruction families do, said once for each. -/

namespace Sys2Proof.Machine

theorem withOperands_eq_next {s t : State} {ra rb : Reg} {k : Word → Word → Result} :
    withOperands s ra rb k = .next t ↔
      memPresent s (regAddr s.w ra) = true ∧ memPresent s (regAddr s.w rb) = true ∧
        k (memWord s.mem (regAddr s.w ra)) (memWord s.mem (regAddr s.w rb)) = .next t := by
  unfold withOperands
  simp only [attempt_eq_next, readReg_eq_ok]
  constructor
  · rintro ⟨_, ⟨ha, rfl⟩, _, ⟨hb, rfl⟩, h⟩
    exact ⟨ha, hb, h⟩
  · rintro ⟨ha, hb, h⟩
    exact ⟨_, ⟨ha, rfl⟩, _, ⟨hb, rfl⟩, h⟩

/-- One register read, then the rest. -/
theorem attempt_readReg_eq_next {s t : State} {ra : Reg} {k : Word → Result} :
    attempt (readReg s ra) k = .next t ↔
      memPresent s (regAddr s.w ra) = true ∧ k (memWord s.mem (regAddr s.w ra)) = .next t := by
  simp only [attempt_eq_next, readReg_eq_ok]
  constructor
  · rintro ⟨_, ⟨ha, rfl⟩, h⟩
    exact ⟨ha, h⟩
  · rintro ⟨ha, h⟩
    exact ⟨_, ⟨ha, rfl⟩, h⟩

theorem finishArith_eq_next {s t : State} {rd : Reg} {r : Word × Flags} :
    finishArith s rd r = .next t ↔
      memPresent s (regAddr s.w rd) = true ∧
        t = retire ((s.setMem (putWord s.mem (regAddr s.w rd) r.1)).setFlags r.2) := by
  unfold finishArith
  simp only [attempt_eq_next, writeReg_eq_ok]
  constructor
  · rintro ⟨_, ⟨hp, rfl⟩, h⟩
    exact ⟨hp, (Host.Outcome.next.inj h).symm⟩
  · rintro ⟨hp, rfl⟩
    exact ⟨_, ⟨hp, rfl⟩, rfl⟩

theorem finishLogic_eq_next {s t : State} {rd : Reg} {res : Word} :
    finishLogic s rd res = .next t ↔
      memPresent s (regAddr s.w rd) = true ∧
        t = retire (logicFlags (s.setMem (putWord s.mem (regAddr s.w rd) res)) res) := by
  unfold finishLogic
  simp only [attempt_eq_next, writeReg_eq_ok]
  constructor
  · rintro ⟨_, ⟨hp, rfl⟩, h⟩
    exact ⟨hp, (Host.Outcome.next.inj h).symm⟩
  · rintro ⟨hp, rfl⟩
    exact ⟨_, ⟨hp, rfl⟩, rfl⟩

theorem finishLoad_eq_next {s t : State} {rd : Reg} {v : Word} :
    finishLoad s rd v = .next t ↔
      memPresent s (regAddr s.w rd) = true ∧ t = retire (s.setMem (putWord s.mem (regAddr s.w rd) v)) := by
  unfold finishLoad
  simp only [attempt_eq_next, writeReg_eq_ok]
  constructor
  · rintro ⟨_, ⟨hp, rfl⟩, h⟩
    exact ⟨hp, (Host.Outcome.next.inj h).symm⟩
  · rintro ⟨hp, rfl⟩
    exact ⟨_, ⟨hp, rfl⟩, rfl⟩

theorem finishStore_eq_next {s t : State} {addr v : Word} :
    finishStore s addr v = .next t ↔
      memPresent s addr = true ∧ t = retire (s.setMem (putWord s.mem addr v)) := by
  unfold finishStore
  simp only [attempt_eq_next, memWrite_eq_ok]
  constructor
  · rintro ⟨_, ⟨hp, rfl⟩, h⟩
    exact ⟨hp, (Host.Outcome.next.inj h).symm⟩
  · rintro ⟨hp, rfl⟩
    exact ⟨_, ⟨hp, rfl⟩, rfl⟩

theorem shiftByReg_eq_next {f : Word → Nat → Word} {rd ra rb : Reg} {s t : State} :
    shiftByReg f rd ra rb s = .next t ↔
      memPresent s (regAddr s.w ra) = true ∧ memPresent s (regAddr s.w rb) = true ∧
        (memWord s.mem (regAddr s.w rb)).toNat ≤ 15 ∧
        finishLogic s rd (f (memWord s.mem (regAddr s.w ra)) (memWord s.mem (regAddr s.w rb)).toNat) = .next t := by
  unfold shiftByReg
  simp only [withOperands_eq_next, attempt_eq_next, shiftAmountReg_eq_ok]
  constructor
  · rintro ⟨ha, hb, _, ⟨hn, rfl⟩, h⟩
    exact ⟨ha, hb, hn, h⟩
  · rintro ⟨ha, hb, hn, h⟩
    exact ⟨ha, hb, _, ⟨hn, rfl⟩, h⟩

theorem shiftByImm_eq_next {f : Word → Nat → Word} {rd ra : Reg} {imm3 : BitVec 3} {s t : State} :
    shiftByImm f rd ra imm3 s = .next t ↔
      memPresent s (regAddr s.w ra) = true ∧
        finishLogic s rd (f (memWord s.mem (regAddr s.w ra)) (imm3.toNat + 1)) = .next t := by
  unfold shiftByImm
  rw [attempt_readReg_eq_next]
  rfl

theorem jumpIf_eq_next {cond : BitVec 4} {off8 : BitVec 8} {s t : State} :
    jumpIf cond off8 s = .next t ↔
      ∃ off, offI8 s off8 = .ok off ∧
        t = if condHolds cond s.flags then jumpTo s (jumpTarget s off) else retire s := by
  unfold jumpIf
  rw [attempt_eq_next]
  constructor
  · rintro ⟨off, ho, h⟩
    exact ⟨off, ho, (Host.Outcome.next.inj h).symm⟩
  · rintro ⟨off, ho, rfl⟩
    exact ⟨off, ho, rfl⟩

/-! ## The flags' own fields -/

@[simp] theorem logicFlags_mem (s : State) (v : Word) : (logicFlags s v).mem = s.mem := rfl
@[simp] theorem logicFlags_w (s : State) (v : Word) : (logicFlags s v).w = s.w := rfl
@[simp] theorem logicFlags_pc (s : State) (v : Word) : (logicFlags s v).pc = s.pc := rfl
@[simp] theorem logicFlags_z (s : State) (v : Word) : (logicFlags s v).flags.z = (v == 0#16) := rfl
@[simp] theorem logicFlags_s (s : State) (v : Word) : (logicFlags s v).flags.s = v.getLsbD 15 := rfl
@[simp] theorem logicFlags_ext13 (s : State) (v : Word) : (logicFlags s v).ext13 = s.ext13 := rfl
@[simp] theorem logicFlags_hasExt13 (s : State) (v : Word) : (logicFlags s v).hasExt13 = s.hasExt13 := rfl
@[simp] theorem logicFlags_absent (s : State) (v : Word) : (logicFlags s v).absent = s.absent := rfl
@[simp] theorem logicFlags_busIn (s : State) (v : Word) : (logicFlags s v).busIn = s.busIn := rfl
@[simp] theorem logicFlags_busLog (s : State) (v : Word) : (logicFlags s v).busLog = s.busLog := rfl
@[simp] theorem logicFlags_draws (s : State) (v : Word) : (logicFlags s v).draws = s.draws + 2 := rfl

/-! ## What each instruction calls -/

/-- `exec` of a jump is the shared jump with the `cond` of spec/30_encoding.md R68. -/
theorem exec_jump_eq (off8 : BitVec 8) (s : State) :
    exec (.jnz off8) s = jumpIf 0b0000#4 off8 s ∧ exec (.jne off8) s = jumpIf 0b0000#4 off8 s ∧
    exec (.jns off8) s = jumpIf 0b0001#4 off8 s ∧ exec (.jnc off8) s = jumpIf 0b0010#4 off8 s ∧
    exec (.jult off8) s = jumpIf 0b0010#4 off8 s ∧ exec (.jno off8) s = jumpIf 0b0011#4 off8 s ∧
    exec (.jugt off8) s = jumpIf 0b0100#4 off8 s ∧ exec (.jsge off8) s = jumpIf 0b0101#4 off8 s ∧
    exec (.jsgt off8) s = jumpIf 0b0110#4 off8 s ∧ exec (.jn off8) s = jumpIf 0b0111#4 off8 s ∧
    exec (.jz off8) s = jumpIf 0b1000#4 off8 s ∧ exec (.je off8) s = jumpIf 0b1000#4 off8 s ∧
    exec (.js off8) s = jumpIf 0b1001#4 off8 s ∧ exec (.jc off8) s = jumpIf 0b1010#4 off8 s ∧
    exec (.juge off8) s = jumpIf 0b1010#4 off8 s ∧ exec (.jo off8) s = jumpIf 0b1011#4 off8 s ∧
    exec (.jule off8) s = jumpIf 0b1100#4 off8 s ∧ exec (.jslt off8) s = jumpIf 0b1101#4 off8 s ∧
    exec (.jsle off8) s = jumpIf 0b1110#4 off8 s ∧ exec (.j off8) s = jumpIf 0b1111#4 off8 s :=
  ⟨rfl, rfl, rfl, rfl, rfl, rfl, rfl, rfl, rfl, rfl, rfl, rfl, rfl, rfl, rfl, rfl, rfl, rfl, rfl, rfl⟩

end Sys2Proof.Machine
end

