-- ==== Sys2Proof/Laws/Exec.lean ====
section
/-! SUPPORT. What each instruction does, said once: when it answers a next state, and which. A proof about an
instruction cites its lemma and unfolds no meaning. -/

namespace Sys2Proof.Machine

theorem next_inj {s t : State} : ((.next s : Result) = .next t) ↔ t = s :=
  ⟨fun h => (Host.Outcome.next.inj h).symm, fun h => h ▸ rfl⟩

/-! ## The operands, as values -/

theorem attempt_reg_eq_next {s t : State} {i : Reg} {k : Word → Result} :
    attempt (readReg s i) k = .next t ↔ regPresent s i ∧ k (regWord s i) = .next t :=
  attempt_readReg_eq_next

theorem attempt_offM5_eq_next {s t : State} {f : BitVec 5} {k : Word → Result} :
    attempt (offM5 s f) k = .next t ↔ longOk5 s f ∧ k (effOff5 s f) = .next t := by
  unfold offM5 longOk5 effOff5 longImm sext5
  cases s.hasExt13
  · simp
  · by_cases h : f.extractLsb' 3 2 = 0#2 <;> simp [h]

theorem attempt_offI8_eq_next {s t : State} {f : BitVec 8} {k : Word → Result} :
    attempt (offI8 s f) k = .next t ↔ longOk8 s f ∧ k (effOff8 s f) = .next t := by
  unfold offI8 longOk8 effOff8 longImm sext8
  cases s.hasExt13
  · simp
  · by_cases h : f.extractLsb' 3 5 = 0#5 <;> simp [h]

theorem attempt_memRead_eq_next {s t : State} {a : Word} {k : Word → Result} :
    attempt (memRead s a) k = .next t ↔ memPresent s a = true ∧ k (memWord s.mem a) = .next t := by
  unfold memRead
  cases memPresent s a <;> simp

theorem attempt_writeReg_eq_next {s t : State} {i : Reg} {v : Word} {k : State → Result} :
    attempt (writeReg s i v) k = .next t ↔
      regPresent s i ∧ k (s.setMem (putWord s.mem (regAddr s.w i) v)) = .next t := by
  unfold writeReg memWrite regPresent
  cases memPresent s (regAddr s.w i) <;> simp

theorem attempt_jr_eq_next {s t : State} {ra : Reg} {k : Word → Result} :
    attempt (if s.hasExt13 = true then .error .jrAfterExti else readReg s ra) k = .next t ↔
      s.hasExt13 = false ∧ regPresent s ra ∧ k (regWord s ra) = .next t := by
  cases s.hasExt13
  · simp [attempt_reg_eq_next]
  · simp

theorem aluImm_eq (s : State) (imm3 : BitVec 3) : aluImm s imm3 = effImm3 s imm3 := rfl

theorem windowImm_eq (s : State) (imm3 : BitVec 3) : windowImm s imm3 = effWindow s imm3 := rfl

theorem jumpIf_eq {cond : BitVec 4} {off8 : BitVec 8} {s t : State} :
    jumpIf cond off8 s = .next t ↔ longOk8 s off8 ∧
      t = if condHolds cond s.flags then jumpTo s (s.pc + 1#16 + effOff8 s off8) else retire s := by
  unfold jumpIf
  rw [attempt_offI8_eq_next, next_inj]
  rfl

/-! ## One lemma per instruction -/

theorem exec_add_eq_next {rd ra rb : Reg} {s t : State} :
    exec (.add rd ra rb) s = .next t ↔
      regPresent s ra ∧ regPresent s rb ∧ regPresent s rd ∧
        t = retire ((s.setMem (putWord s.mem (regAddr s.w rd)
          (addFlags (regWord s ra) (regWord s rb) false).1)).setFlags
          (addFlags (regWord s ra) (regWord s rb) false).2) := by
  simp only [exec, execAdd, withOperands_eq_next, finishArith_eq_next]
  rfl

theorem exec_addi_eq_next {rd ra : Reg} {imm3 : BitVec 3} {s t : State} :
    exec (.addi rd ra imm3) s = .next t ↔
      regPresent s ra ∧ regPresent s rd ∧
        t = retire ((s.setMem (putWord s.mem (regAddr s.w rd)
          (addFlags (regWord s ra) (effImm3 s imm3) false).1)).setFlags
          (addFlags (regWord s ra) (effImm3 s imm3) false).2) := by
  simp only [exec, execAddi, attempt_reg_eq_next, finishArith_eq_next, aluImm_eq]
  rfl

theorem exec_adc_eq_next {rd ra rb : Reg} {s t : State} :
    exec (.adc rd ra rb) s = .next t ↔
      regPresent s ra ∧ regPresent s rb ∧ regPresent s rd ∧
        t = retire ((s.setMem (putWord s.mem (regAddr s.w rd)
          (addFlags (regWord s ra) (regWord s rb) s.flags.c).1)).setFlags
          (addFlags (regWord s ra) (regWord s rb) s.flags.c).2) := by
  simp only [exec, execAdc, withOperands_eq_next, finishArith_eq_next]
  rfl

theorem exec_adci_eq_next {rd ra : Reg} {imm3 : BitVec 3} {s t : State} :
    exec (.adci rd ra imm3) s = .next t ↔
      regPresent s ra ∧ regPresent s rd ∧
        t = retire ((s.setMem (putWord s.mem (regAddr s.w rd)
          (addFlags (regWord s ra) (effImm3 s imm3) s.flags.c).1)).setFlags
          (addFlags (regWord s ra) (effImm3 s imm3) s.flags.c).2) := by
  simp only [exec, execAdci, attempt_reg_eq_next, finishArith_eq_next, aluImm_eq]
  rfl

theorem exec_sub_eq_next {rd ra rb : Reg} {s t : State} :
    exec (.sub rd ra rb) s = .next t ↔
      regPresent s ra ∧ regPresent s rb ∧ regPresent s rd ∧
        t = retire ((s.setMem (putWord s.mem (regAddr s.w rd)
          (subFlags (regWord s ra) (regWord s rb) false).1)).setFlags
          (subFlags (regWord s ra) (regWord s rb) false).2) := by
  simp only [exec, execSub, withOperands_eq_next, finishArith_eq_next]
  rfl

theorem exec_subi_eq_next {rd ra : Reg} {imm3 : BitVec 3} {s t : State} :
    exec (.subi rd ra imm3) s = .next t ↔
      regPresent s ra ∧ regPresent s rd ∧
        t = retire ((s.setMem (putWord s.mem (regAddr s.w rd)
          (subFlags (regWord s ra) (effImm3 s imm3) false).1)).setFlags
          (subFlags (regWord s ra) (effImm3 s imm3) false).2) := by
  simp only [exec, execSubi, attempt_reg_eq_next, finishArith_eq_next, aluImm_eq]
  rfl

theorem exec_sbb_eq_next {rd ra rb : Reg} {s t : State} :
    exec (.sbb rd ra rb) s = .next t ↔
      regPresent s ra ∧ regPresent s rb ∧ regPresent s rd ∧
        t = retire ((s.setMem (putWord s.mem (regAddr s.w rd)
          (subFlags (regWord s ra) (regWord s rb) (!s.flags.c)).1)).setFlags
          (subFlags (regWord s ra) (regWord s rb) (!s.flags.c)).2) := by
  simp only [exec, execSbb, withOperands_eq_next, finishArith_eq_next]
  rfl

theorem exec_sbbi_eq_next {rd ra : Reg} {imm3 : BitVec 3} {s t : State} :
    exec (.sbbi rd ra imm3) s = .next t ↔
      regPresent s ra ∧ regPresent s rd ∧
        t = retire ((s.setMem (putWord s.mem (regAddr s.w rd)
          (subFlags (regWord s ra) (effImm3 s imm3) (!s.flags.c)).1)).setFlags
          (subFlags (regWord s ra) (effImm3 s imm3) (!s.flags.c)).2) := by
  simp only [exec, execSbbi, attempt_reg_eq_next, finishArith_eq_next, aluImm_eq]
  rfl

theorem exec_cmp_eq_next {ra rb : Reg} {s t : State} :
    exec (.cmp ra rb) s = .next t ↔
      regPresent s ra ∧ regPresent s rb ∧
        t = retire (s.setFlags (subFlags (regWord s ra) (regWord s rb) false).2) := by
  simp only [exec, execCmp, withOperands_eq_next, finishCompare, next_inj]
  rfl

theorem exec_cmpi_eq_next {ra : Reg} {imm3 : BitVec 3} {s t : State} :
    exec (.cmpi ra imm3) s = .next t ↔
      regPresent s ra ∧ t = retire (s.setFlags (subFlags (regWord s ra) (effImm3 s imm3) false).2) := by
  simp only [exec, execCmpi, attempt_reg_eq_next, finishCompare, next_inj, aluImm_eq]

theorem exec_and_eq_next {rd ra rb : Reg} {s t : State} :
    exec (.and rd ra rb) s = .next t ↔
      regPresent s ra ∧ regPresent s rb ∧ regPresent s rd ∧
        t = retire (logicFlags (s.setMem (putWord s.mem (regAddr s.w rd) (regWord s ra &&& regWord s rb)))
          (regWord s ra &&& regWord s rb)) := by
  simp only [exec, execAnd, withOperands_eq_next, finishLogic_eq_next]
  rfl

theorem exec_andi_eq_next {rd ra : Reg} {imm3 : BitVec 3} {s t : State} :
    exec (.andi rd ra imm3) s = .next t ↔
      regPresent s ra ∧ regPresent s rd ∧
        t = retire (logicFlags (s.setMem (putWord s.mem (regAddr s.w rd) (regWord s ra &&& effImm3 s imm3)))
          (regWord s ra &&& effImm3 s imm3)) := by
  simp only [exec, execAndi, attempt_reg_eq_next, finishLogic_eq_next, aluImm_eq]
  rfl

theorem exec_or_eq_next {rd ra rb : Reg} {s t : State} :
    exec (.or rd ra rb) s = .next t ↔
      regPresent s ra ∧ regPresent s rb ∧ regPresent s rd ∧
        t = retire (logicFlags (s.setMem (putWord s.mem (regAddr s.w rd) (regWord s ra ||| regWord s rb)))
          (regWord s ra ||| regWord s rb)) := by
  simp only [exec, execOr, withOperands_eq_next, finishLogic_eq_next]
  rfl

theorem exec_ori_eq_next {rd ra : Reg} {imm3 : BitVec 3} {s t : State} :
    exec (.ori rd ra imm3) s = .next t ↔
      regPresent s ra ∧ regPresent s rd ∧
        t = retire (logicFlags (s.setMem (putWord s.mem (regAddr s.w rd) (regWord s ra ||| effImm3 s imm3)))
          (regWord s ra ||| effImm3 s imm3)) := by
  simp only [exec, execOri, attempt_reg_eq_next, finishLogic_eq_next, aluImm_eq]
  rfl

theorem exec_xor_eq_next {rd ra rb : Reg} {s t : State} :
    exec (.xor rd ra rb) s = .next t ↔
      regPresent s ra ∧ regPresent s rb ∧ regPresent s rd ∧
        t = retire (logicFlags (s.setMem (putWord s.mem (regAddr s.w rd) (regWord s ra ^^^ regWord s rb)))
          (regWord s ra ^^^ regWord s rb)) := by
  simp only [exec, execXor, withOperands_eq_next, finishLogic_eq_next]
  rfl

theorem exec_xori_eq_next {rd ra : Reg} {imm3 : BitVec 3} {s t : State} :
    exec (.xori rd ra imm3) s = .next t ↔
      regPresent s ra ∧ regPresent s rd ∧
        t = retire (logicFlags (s.setMem (putWord s.mem (regAddr s.w rd) (regWord s ra ^^^ effImm3 s imm3)))
          (regWord s ra ^^^ effImm3 s imm3)) := by
  simp only [exec, execXori, attempt_reg_eq_next, finishLogic_eq_next, aluImm_eq]
  rfl

theorem exec_sll_eq_next {rd ra rb : Reg} {s t : State} :
    exec (.sll rd ra rb) s = .next t ↔
      regPresent s ra ∧ regPresent s rb ∧ (regWord s rb).toNat ≤ 15 ∧ regPresent s rd ∧
        t = retire (logicFlags (s.setMem (putWord s.mem (regAddr s.w rd) (shl (regWord s ra) (regWord s rb).toNat)))
          (shl (regWord s ra) (regWord s rb).toNat)) := by
  simp only [exec, execSll, shiftByReg_eq_next, finishLogic_eq_next]
  rfl

theorem exec_slli_eq_next {rd ra : Reg} {imm3 : BitVec 3} {s t : State} :
    exec (.slli rd ra imm3) s = .next t ↔
      regPresent s ra ∧ regPresent s rd ∧
        t = retire (logicFlags (s.setMem (putWord s.mem (regAddr s.w rd) (shl (regWord s ra) (imm3.toNat + 1))))
          (shl (regWord s ra) (imm3.toNat + 1))) := by
  simp only [exec, execSlli, shiftByImm_eq_next, finishLogic_eq_next]
  rfl

theorem exec_srl_eq_next {rd ra rb : Reg} {s t : State} :
    exec (.srl rd ra rb) s = .next t ↔
      regPresent s ra ∧ regPresent s rb ∧ (regWord s rb).toNat ≤ 15 ∧ regPresent s rd ∧
        t = retire (logicFlags (s.setMem (putWord s.mem (regAddr s.w rd) (shr (regWord s ra) (regWord s rb).toNat)))
          (shr (regWord s ra) (regWord s rb).toNat)) := by
  simp only [exec, execSrl, shiftByReg_eq_next, finishLogic_eq_next]
  rfl

theorem exec_srli_eq_next {rd ra : Reg} {imm3 : BitVec 3} {s t : State} :
    exec (.srli rd ra imm3) s = .next t ↔
      regPresent s ra ∧ regPresent s rd ∧
        t = retire (logicFlags (s.setMem (putWord s.mem (regAddr s.w rd) (shr (regWord s ra) (imm3.toNat + 1))))
          (shr (regWord s ra) (imm3.toNat + 1))) := by
  simp only [exec, execSrli, shiftByImm_eq_next, finishLogic_eq_next]
  rfl

theorem exec_sra_eq_next {rd ra rb : Reg} {s t : State} :
    exec (.sra rd ra rb) s = .next t ↔
      regPresent s ra ∧ regPresent s rb ∧ (regWord s rb).toNat ≤ 15 ∧ regPresent s rd ∧
        t = retire (logicFlags (s.setMem (putWord s.mem (regAddr s.w rd) (sar (regWord s ra) (regWord s rb).toNat)))
          (sar (regWord s ra) (regWord s rb).toNat)) := by
  simp only [exec, execSra, shiftByReg_eq_next, finishLogic_eq_next]
  rfl

theorem exec_srai_eq_next {rd ra : Reg} {imm3 : BitVec 3} {s t : State} :
    exec (.srai rd ra imm3) s = .next t ↔
      regPresent s ra ∧ regPresent s rd ∧
        t = retire (logicFlags (s.setMem (putWord s.mem (regAddr s.w rd) (sar (regWord s ra) (imm3.toNat + 1))))
          (sar (regWord s ra) (imm3.toNat + 1))) := by
  simp only [exec, execSrai, shiftByImm_eq_next, finishLogic_eq_next]
  rfl

theorem exec_rot_eq_next {rd ra rb : Reg} {s t : State} :
    exec (.rot rd ra rb) s = .next t ↔
      regPresent s ra ∧ regPresent s rb ∧ (regWord s rb).toNat ≤ 15 ∧ regPresent s rd ∧
        t = retire (logicFlags (s.setMem (putWord s.mem (regAddr s.w rd) (rol (regWord s ra) (regWord s rb).toNat)))
          (rol (regWord s ra) (regWord s rb).toNat)) := by
  simp only [exec, execRot, shiftByReg_eq_next, finishLogic_eq_next]
  rfl

theorem exec_roti_eq_next {rd ra : Reg} {imm3 : BitVec 3} {s t : State} :
    exec (.roti rd ra imm3) s = .next t ↔
      regPresent s ra ∧ regPresent s rd ∧
        t = retire (logicFlags (s.setMem (putWord s.mem (regAddr s.w rd) (rol (regWord s ra) (imm3.toNat + 1))))
          (rol (regWord s ra) (imm3.toNat + 1))) := by
  simp only [exec, execRoti, shiftByImm_eq_next, finishLogic_eq_next]
  rfl

theorem exec_adjw1_eq_next {imm3 : BitVec 3} {s t : State} :
    exec (.adjw1 imm3) s = .next t ↔
      t = retire (s.setW (windowAdd s.w (effWindow s imm3))) := by
  simp only [exec, execAdjw1, next_inj, windowImm_eq]

theorem exec_adjw2_eq_next {rd : Reg} {imm3 : BitVec 3} {s t : State} :
    exec (.adjw2 rd imm3) s = .next t ↔
      memPresent s (regAddr (windowAdd s.w (effWindow s imm3)) rd) = true ∧
        t = retire ((s.setW (windowAdd s.w (effWindow s imm3))).setMem
          (putWord s.mem (regAddr (windowAdd s.w (effWindow s imm3)) rd) (windowBase s.w))) := by
  simp only [exec, execAdjw2, attempt_writeReg_eq_next, next_inj, windowImm_eq]
  rfl

theorem exec_ld_eq_next {rd ra : Reg} {off5 : BitVec 5} {s t : State} :
    exec (.ld rd ra off5) s = .next t ↔
      longOk5 s off5 ∧ regPresent s ra ∧ memPresent s (baseAddr (regWord s ra) (effOff5 s off5)) = true ∧
        regPresent s rd ∧
        t = retire (s.setMem (putWord s.mem (regAddr s.w rd)
          (memWord s.mem (baseAddr (regWord s ra) (effOff5 s off5))))) := by
  simp only [exec, execLd, attempt_offM5_eq_next, attempt_reg_eq_next, attempt_memRead_eq_next, finishLoad_eq_next]
  rfl

theorem exec_ldi_eq_next {rd ra : Reg} {off5 : BitVec 5} {s t : State} :
    exec (.ldi rd ra off5) s = .next t ↔
      longOk5 s off5 ∧ regPresent s ra ∧ memPresent s (indexedAddr s (regWord s ra) (effOff5 s off5)) = true ∧
        regPresent s rd ∧
        t = retire (s.setMem (putWord s.mem (regAddr s.w rd)
          (memWord s.mem (indexedAddr s (regWord s ra) (effOff5 s off5))))) := by
  simp only [exec, execLdi, attempt_offM5_eq_next, attempt_reg_eq_next, attempt_memRead_eq_next, finishLoad_eq_next]
  rfl

theorem exec_st_eq_next {rs ra : Reg} {off5 : BitVec 5} {s t : State} :
    exec (.st rs ra off5) s = .next t ↔
      longOk5 s off5 ∧ regPresent s ra ∧ regPresent s rs ∧ memPresent s (baseAddr (regWord s ra) (effOff5 s off5)) = true ∧
        t = retire (s.setMem (putWord s.mem (baseAddr (regWord s ra) (effOff5 s off5)) (regWord s rs))) := by
  simp only [exec, execSt, attempt_offM5_eq_next, attempt_reg_eq_next, finishStore_eq_next]

theorem exec_sti_eq_next {rs ra : Reg} {off5 : BitVec 5} {s t : State} :
    exec (.sti rs ra off5) s = .next t ↔
      longOk5 s off5 ∧ regPresent s ra ∧ regPresent s rs ∧ memPresent s (indexedAddr s (regWord s ra) (effOff5 s off5)) = true ∧
        t = retire (s.setMem (putWord s.mem (indexedAddr s (regWord s ra) (effOff5 s off5)) (regWord s rs))) := by
  simp only [exec, execSti, attempt_offM5_eq_next, attempt_reg_eq_next, finishStore_eq_next]

theorem exec_ldx_eq_next {rd ra : Reg} {off5 : BitVec 5} {s t : State} :
    exec (.ldx rd ra off5) s = .next t ↔
      longOk5 s off5 ∧ regPresent s ra ∧ regPresent s rd ∧
        t = retire ((extRead s (baseAddr (regWord s ra) (effOff5 s off5))).setMem
          (putWord s.mem (regAddr s.w rd) (busAnswer s (baseAddr (regWord s ra) (effOff5 s off5))))) := by
  simp only [exec, execLdx, attempt_offM5_eq_next, attempt_reg_eq_next, finishLoad_eq_next]
  rfl

theorem exec_ldxz_eq_next {rd : Reg} {off8 : BitVec 8} {s t : State} :
    exec (.ldxz rd off8) s = .next t ↔
      longOk8 s off8 ∧ regPresent s rd ∧
        t = retire ((extRead s (effOff8 s off8)).setMem
          (putWord s.mem (regAddr s.w rd) (busAnswer s (effOff8 s off8)))) := by
  simp only [exec, execLdxz, attempt_offI8_eq_next, finishLoad_eq_next]
  rfl

theorem exec_stx_eq_next {rs ra : Reg} {off5 : BitVec 5} {s t : State} :
    exec (.stx rs ra off5) s = .next t ↔
      longOk5 s off5 ∧ regPresent s ra ∧ regPresent s rs ∧
        t = retire (extWrite s (baseAddr (regWord s ra) (effOff5 s off5)) (regWord s rs)) := by
  simp only [exec, execStx, attempt_offM5_eq_next, attempt_reg_eq_next, next_inj]

theorem exec_stxz_eq_next {rs : Reg} {off8 : BitVec 8} {s t : State} :
    exec (.stxz rs off8) s = .next t ↔
      longOk8 s off8 ∧ regPresent s rs ∧ t = retire (extWrite s (effOff8 s off8) (regWord s rs)) := by
  simp only [exec, execStxz, attempt_offI8_eq_next, attempt_reg_eq_next, next_inj]

theorem exec_mova_eq_next {rd : Reg} {off8 : BitVec 8} {s t : State} :
    exec (.mova rd off8) s = .next t ↔
      longOk8 s off8 ∧ regPresent s rd ∧
        t = retire (s.setMem (putWord s.mem (regAddr s.w rd) (s.pc + 1#16 + effOff8 s off8))) := by
  simp only [exec, execMova, attempt_offI8_eq_next, finishLoad_eq_next]
  rfl

theorem exec_movi_eq_next {rd : Reg} {imm8 : BitVec 8} {s t : State} :
    exec (.movi rd imm8) s = .next t ↔
      longOk8 s imm8 ∧ regPresent s rd ∧
        t = retire (s.setMem (putWord s.mem (regAddr s.w rd) (effOff8 s imm8))) := by
  simp only [exec, execMovi, attempt_offI8_eq_next, finishLoad_eq_next]
  rfl

theorem exec_exti_eq_next {imm13 : BitVec 13} {s t : State} :
    exec (.exti imm13) s = .next t ↔
      t = ((s.setExt13 imm13).setPc (s.pc + 1#16)).setHasExt13 true := by
  simp only [exec, execExti, next_inj]

theorem exec_jal_eq_next {rd : Reg} {off8 : BitVec 8} {s t : State} :
    exec (.jal rd off8) s = .next t ↔
      longOk8 s off8 ∧ regPresent s rd ∧
        t = jumpTo (s.setMem (putWord s.mem (regAddr s.w rd) (s.pc + 1#16))) (s.pc + 1#16 + effOff8 s off8) := by
  simp only [exec, execJal, attempt_offI8_eq_next, attempt_writeReg_eq_next, next_inj]
  rfl

theorem exec_jr_eq_next {ra : Reg} {s t : State} :
    exec (.jr ra) s = .next t ↔
      s.hasExt13 = false ∧ regPresent s ra ∧ t = jumpTo s (regWord s ra) := by
  simp only [exec, execJr, attempt_jr_eq_next, next_inj]

/-- The conditions by `cond`, as expressions in the flags (R68, R146). -/
theorem condHolds_eq (f : Flags) :
    condHolds 0b0000#4 f = (!f.z) ∧
    condHolds 0b0001#4 f = (!f.s) ∧
    condHolds 0b0010#4 f = (!f.c) ∧
    condHolds 0b0011#4 f = (!f.v) ∧
    condHolds 0b0100#4 f = (f.c && !f.z) ∧
    condHolds 0b0101#4 f = (f.s == f.v) ∧
    condHolds 0b0110#4 f = (f.s == f.v && !f.z) ∧
    condHolds 0b0111#4 f = (false) ∧
    condHolds 0b1000#4 f = (f.z) ∧
    condHolds 0b1001#4 f = (f.s) ∧
    condHolds 0b1010#4 f = (f.c) ∧
    condHolds 0b1011#4 f = (f.v) ∧
    condHolds 0b1100#4 f = (!f.c || f.z) ∧
    condHolds 0b1101#4 f = (f.s != f.v) ∧
    condHolds 0b1110#4 f = (f.s != f.v || f.z) ∧
    condHolds 0b1111#4 f = (true) := by
  obtain ⟨z, s, c, v⟩ := f
  revert z s c v
  decide

theorem exec_jnz_eq_next {off8 : BitVec 8} {s t : State} :
    exec (.jnz off8) s = .next t ↔
      longOk8 s off8 ∧
        t = if (!s.flags.z) = true then jumpTo s (s.pc + 1#16 + effOff8 s off8) else retire s := by
  simp only [exec, execJnz, jumpIf_eq, (condHolds_eq s.flags).1]

theorem exec_jne_eq_next {off8 : BitVec 8} {s t : State} :
    exec (.jne off8) s = .next t ↔
      longOk8 s off8 ∧
        t = if (!s.flags.z) = true then jumpTo s (s.pc + 1#16 + effOff8 s off8) else retire s := by
  simp only [exec, execJne, jumpIf_eq, (condHolds_eq s.flags).1]

theorem exec_jns_eq_next {off8 : BitVec 8} {s t : State} :
    exec (.jns off8) s = .next t ↔
      longOk8 s off8 ∧
        t = if (!s.flags.s) = true then jumpTo s (s.pc + 1#16 + effOff8 s off8) else retire s := by
  simp only [exec, execJns, jumpIf_eq, (condHolds_eq s.flags).2.1]

theorem exec_jnc_eq_next {off8 : BitVec 8} {s t : State} :
    exec (.jnc off8) s = .next t ↔
      longOk8 s off8 ∧
        t = if (!s.flags.c) = true then jumpTo s (s.pc + 1#16 + effOff8 s off8) else retire s := by
  simp only [exec, execJnc, jumpIf_eq, (condHolds_eq s.flags).2.2.1]

theorem exec_jult_eq_next {off8 : BitVec 8} {s t : State} :
    exec (.jult off8) s = .next t ↔
      longOk8 s off8 ∧
        t = if (!s.flags.c) = true then jumpTo s (s.pc + 1#16 + effOff8 s off8) else retire s := by
  simp only [exec, execJult, jumpIf_eq, (condHolds_eq s.flags).2.2.1]

theorem exec_jno_eq_next {off8 : BitVec 8} {s t : State} :
    exec (.jno off8) s = .next t ↔
      longOk8 s off8 ∧
        t = if (!s.flags.v) = true then jumpTo s (s.pc + 1#16 + effOff8 s off8) else retire s := by
  simp only [exec, execJno, jumpIf_eq, (condHolds_eq s.flags).2.2.2.1]

theorem exec_jugt_eq_next {off8 : BitVec 8} {s t : State} :
    exec (.jugt off8) s = .next t ↔
      longOk8 s off8 ∧
        t = if (s.flags.c && !s.flags.z) = true then jumpTo s (s.pc + 1#16 + effOff8 s off8) else retire s := by
  simp only [exec, execJugt, jumpIf_eq, (condHolds_eq s.flags).2.2.2.2.1]

theorem exec_jsge_eq_next {off8 : BitVec 8} {s t : State} :
    exec (.jsge off8) s = .next t ↔
      longOk8 s off8 ∧
        t = if (s.flags.s == s.flags.v) = true then jumpTo s (s.pc + 1#16 + effOff8 s off8) else retire s := by
  simp only [exec, execJsge, jumpIf_eq, (condHolds_eq s.flags).2.2.2.2.2.1]

theorem exec_jsgt_eq_next {off8 : BitVec 8} {s t : State} :
    exec (.jsgt off8) s = .next t ↔
      longOk8 s off8 ∧
        t = if (s.flags.s == s.flags.v && !s.flags.z) = true then jumpTo s (s.pc + 1#16 + effOff8 s off8)
          else retire s := by
  simp only [exec, execJsgt, jumpIf_eq, (condHolds_eq s.flags).2.2.2.2.2.2.1]

theorem exec_jn_eq_next {off8 : BitVec 8} {s t : State} :
    exec (.jn off8) s = .next t ↔
      longOk8 s off8 ∧ t = retire s := by
  simp only [exec, execJn, jumpIf_eq, (condHolds_eq s.flags).2.2.2.2.2.2.2.1, Bool.false_eq_true, if_false]

theorem exec_jz_eq_next {off8 : BitVec 8} {s t : State} :
    exec (.jz off8) s = .next t ↔
      longOk8 s off8 ∧
        t = if (s.flags.z) = true then jumpTo s (s.pc + 1#16 + effOff8 s off8) else retire s := by
  simp only [exec, execJz, jumpIf_eq, (condHolds_eq s.flags).2.2.2.2.2.2.2.2.1]

theorem exec_je_eq_next {off8 : BitVec 8} {s t : State} :
    exec (.je off8) s = .next t ↔
      longOk8 s off8 ∧
        t = if (s.flags.z) = true then jumpTo s (s.pc + 1#16 + effOff8 s off8) else retire s := by
  simp only [exec, execJe, jumpIf_eq, (condHolds_eq s.flags).2.2.2.2.2.2.2.2.1]

theorem exec_js_eq_next {off8 : BitVec 8} {s t : State} :
    exec (.js off8) s = .next t ↔
      longOk8 s off8 ∧
        t = if (s.flags.s) = true then jumpTo s (s.pc + 1#16 + effOff8 s off8) else retire s := by
  simp only [exec, execJs, jumpIf_eq, (condHolds_eq s.flags).2.2.2.2.2.2.2.2.2.1]

theorem exec_jc_eq_next {off8 : BitVec 8} {s t : State} :
    exec (.jc off8) s = .next t ↔
      longOk8 s off8 ∧
        t = if (s.flags.c) = true then jumpTo s (s.pc + 1#16 + effOff8 s off8) else retire s := by
  simp only [exec, execJc, jumpIf_eq, (condHolds_eq s.flags).2.2.2.2.2.2.2.2.2.2.1]

theorem exec_juge_eq_next {off8 : BitVec 8} {s t : State} :
    exec (.juge off8) s = .next t ↔
      longOk8 s off8 ∧
        t = if (s.flags.c) = true then jumpTo s (s.pc + 1#16 + effOff8 s off8) else retire s := by
  simp only [exec, execJuge, jumpIf_eq, (condHolds_eq s.flags).2.2.2.2.2.2.2.2.2.2.1]

theorem exec_jo_eq_next {off8 : BitVec 8} {s t : State} :
    exec (.jo off8) s = .next t ↔
      longOk8 s off8 ∧
        t = if (s.flags.v) = true then jumpTo s (s.pc + 1#16 + effOff8 s off8) else retire s := by
  simp only [exec, execJo, jumpIf_eq, (condHolds_eq s.flags).2.2.2.2.2.2.2.2.2.2.2.1]

theorem exec_jule_eq_next {off8 : BitVec 8} {s t : State} :
    exec (.jule off8) s = .next t ↔
      longOk8 s off8 ∧
        t = if (!s.flags.c || s.flags.z) = true then jumpTo s (s.pc + 1#16 + effOff8 s off8) else retire s := by
  simp only [exec, execJule, jumpIf_eq, (condHolds_eq s.flags).2.2.2.2.2.2.2.2.2.2.2.2.1]

theorem exec_jslt_eq_next {off8 : BitVec 8} {s t : State} :
    exec (.jslt off8) s = .next t ↔
      longOk8 s off8 ∧
        t = if (s.flags.s != s.flags.v) = true then jumpTo s (s.pc + 1#16 + effOff8 s off8) else retire s := by
  simp only [exec, execJslt, jumpIf_eq, (condHolds_eq s.flags).2.2.2.2.2.2.2.2.2.2.2.2.2.1]

theorem exec_jsle_eq_next {off8 : BitVec 8} {s t : State} :
    exec (.jsle off8) s = .next t ↔
      longOk8 s off8 ∧
        t = if (s.flags.s != s.flags.v || s.flags.z) = true then jumpTo s (s.pc + 1#16 + effOff8 s off8)
          else retire s := by
  simp only [exec, execJsle, jumpIf_eq, (condHolds_eq s.flags).2.2.2.2.2.2.2.2.2.2.2.2.2.2.1]

theorem exec_j_eq_next {off8 : BitVec 8} {s t : State} :
    exec (.j off8) s = .next t ↔
      longOk8 s off8 ∧ t = jumpTo s (s.pc + 1#16 + effOff8 s off8) := by
  simp only [exec, execJ, jumpIf_eq, (condHolds_eq s.flags).2.2.2.2.2.2.2.2.2.2.2.2.2.2.2, if_true]

end Sys2Proof.Machine
end

