-- ==== Sys2Proof/Laws/PerInstr.lean ====
section
/-! SUPPORT. The family AliasWord, instruction by instruction: the spelling the decoder answers has the same word and is
as well-formed as the spelling it stands for (spec/30_encoding.md R81). -/

namespace Sys2Proof.Laws.AliasWord

def Statement (i : Instr) : Prop := encode i.canonical = encode i ∧ i.canonical.wellFormed = i.wellFormed

theorem and (a b c : Reg) : Statement (.and a b c) := ⟨rfl, rfl⟩
theorem or (a b c : Reg) : Statement (.or a b c) := ⟨rfl, rfl⟩
theorem xor (a b c : Reg) : Statement (.xor a b c) := ⟨rfl, rfl⟩
theorem cmp (a b : Reg) : Statement (.cmp a b) := ⟨rfl, rfl⟩
theorem andi (a b : Reg) (c : BitVec 3) : Statement (.andi a b c) := ⟨rfl, rfl⟩
theorem ori (a b : Reg) (c : BitVec 3) : Statement (.ori a b c) := ⟨rfl, rfl⟩
theorem xori (a b : Reg) (c : BitVec 3) : Statement (.xori a b c) := ⟨rfl, rfl⟩
theorem cmpi (a : Reg) (b : BitVec 3) : Statement (.cmpi a b) := ⟨rfl, rfl⟩
theorem add (a b c : Reg) : Statement (.add a b c) := ⟨rfl, rfl⟩
theorem adc (a b c : Reg) : Statement (.adc a b c) := ⟨rfl, rfl⟩
theorem sub (a b c : Reg) : Statement (.sub a b c) := ⟨rfl, rfl⟩
theorem sbb (a b c : Reg) : Statement (.sbb a b c) := ⟨rfl, rfl⟩
theorem addi (a b : Reg) (c : BitVec 3) : Statement (.addi a b c) := ⟨rfl, rfl⟩
theorem adci (a b : Reg) (c : BitVec 3) : Statement (.adci a b c) := ⟨rfl, rfl⟩
theorem subi (a b : Reg) (c : BitVec 3) : Statement (.subi a b c) := ⟨rfl, rfl⟩
theorem sbbi (a b : Reg) (c : BitVec 3) : Statement (.sbbi a b c) := ⟨rfl, rfl⟩
theorem sll (a b c : Reg) : Statement (.sll a b c) := ⟨rfl, rfl⟩
theorem rot (a b c : Reg) : Statement (.rot a b c) := ⟨rfl, rfl⟩
theorem srl (a b c : Reg) : Statement (.srl a b c) := ⟨rfl, rfl⟩
theorem sra (a b c : Reg) : Statement (.sra a b c) := ⟨rfl, rfl⟩
theorem slli (a b : Reg) (c : BitVec 3) : Statement (.slli a b c) := ⟨rfl, rfl⟩
theorem roti (a b : Reg) (c : BitVec 3) : Statement (.roti a b c) := ⟨rfl, rfl⟩
theorem srli (a b : Reg) (c : BitVec 3) : Statement (.srli a b c) := ⟨rfl, rfl⟩
theorem srai (a b : Reg) (c : BitVec 3) : Statement (.srai a b c) := ⟨rfl, rfl⟩
theorem adjw1 (a : BitVec 3) : Statement (.adjw1 a) := ⟨rfl, rfl⟩
theorem adjw2 (a : Reg) (b : BitVec 3) : Statement (.adjw2 a b) := ⟨rfl, rfl⟩
theorem ld (a b : Reg) (c : BitVec 5) : Statement (.ld a b c) := ⟨rfl, rfl⟩
theorem ldi (a b : Reg) (c : BitVec 5) : Statement (.ldi a b c) := ⟨rfl, rfl⟩
theorem st (a b : Reg) (c : BitVec 5) : Statement (.st a b c) := ⟨rfl, rfl⟩
theorem sti (a b : Reg) (c : BitVec 5) : Statement (.sti a b c) := ⟨rfl, rfl⟩
theorem ldx (a b : Reg) (c : BitVec 5) : Statement (.ldx a b c) := ⟨rfl, rfl⟩
theorem ldxz (a : Reg) (b : BitVec 8) : Statement (.ldxz a b) := ⟨rfl, rfl⟩
theorem stx (a b : Reg) (c : BitVec 5) : Statement (.stx a b c) := ⟨rfl, rfl⟩
theorem stxz (a : Reg) (b : BitVec 8) : Statement (.stxz a b) := ⟨rfl, rfl⟩
theorem mova (a : Reg) (b : BitVec 8) : Statement (.mova a b) := ⟨rfl, rfl⟩
theorem movi (a : Reg) (b : BitVec 8) : Statement (.movi a b) := ⟨rfl, rfl⟩
theorem jal (a : Reg) (b : BitVec 8) : Statement (.jal a b) := ⟨rfl, rfl⟩
theorem jr (a : Reg) : Statement (.jr a) := ⟨rfl, rfl⟩
theorem jnz (a : BitVec 8) : Statement (.jnz a) := ⟨rfl, rfl⟩
theorem jne (a : BitVec 8) : Statement (.jne a) := ⟨rfl, rfl⟩
theorem jns (a : BitVec 8) : Statement (.jns a) := ⟨rfl, rfl⟩
theorem jnc (a : BitVec 8) : Statement (.jnc a) := ⟨rfl, rfl⟩
theorem jult (a : BitVec 8) : Statement (.jult a) := ⟨rfl, rfl⟩
theorem jno (a : BitVec 8) : Statement (.jno a) := ⟨rfl, rfl⟩
theorem jugt (a : BitVec 8) : Statement (.jugt a) := ⟨rfl, rfl⟩
theorem jsge (a : BitVec 8) : Statement (.jsge a) := ⟨rfl, rfl⟩
theorem jsgt (a : BitVec 8) : Statement (.jsgt a) := ⟨rfl, rfl⟩
theorem jn (a : BitVec 8) : Statement (.jn a) := ⟨rfl, rfl⟩
theorem jz (a : BitVec 8) : Statement (.jz a) := ⟨rfl, rfl⟩
theorem je (a : BitVec 8) : Statement (.je a) := ⟨rfl, rfl⟩
theorem js (a : BitVec 8) : Statement (.js a) := ⟨rfl, rfl⟩
theorem jc (a : BitVec 8) : Statement (.jc a) := ⟨rfl, rfl⟩
theorem juge (a : BitVec 8) : Statement (.juge a) := ⟨rfl, rfl⟩
theorem jo (a : BitVec 8) : Statement (.jo a) := ⟨rfl, rfl⟩
theorem jule (a : BitVec 8) : Statement (.jule a) := ⟨rfl, rfl⟩
theorem jslt (a : BitVec 8) : Statement (.jslt a) := ⟨rfl, rfl⟩
theorem jsle (a : BitVec 8) : Statement (.jsle a) := ⟨rfl, rfl⟩
theorem j (a : BitVec 8) : Statement (.j a) := ⟨rfl, rfl⟩
theorem exti (a : BitVec 13) : Statement (.exti a) := ⟨rfl, rfl⟩

end Sys2Proof.Laws.AliasWord
end

