-- ==== Sys2Proof/Tests/Slice0.lean ====
section
/-! SUPPORT. Tests: the well-formedness check, one written-out word for every constructor, single steps with the start
and end values of spec/95_test_vectors.md (the vector's id stands in the name), and, for every statement with
hypotheses, a concrete case that meets them. -/

namespace Sys2Proof.Tests.Slice0
open Sys2Proof Sys2Proof.Machine

/-! ## Builders -/

/-- The start of the spec's vectors: `W` = 0x0010, `PC` = 0x0100, the words `mem` in memory, no extension. -/
def start (mem : List (Word × Word)) : State :=
  State.reset.setMem (mem.foldl (fun m c => putWord m c.1 c.2) [])

/-- The same after an EXTI at 0x0100. -/
def afterExti (ext13 : BitVec 13) (mem : List (Word × Word)) : State :=
  (((start mem).setPc 0x0101#16).setExt13 ext13).setHasExt13 true

/-- A platform with memory at 0x0000 to 0x7FFF only. -/
def half : State := State.reset.setAbsent [{ first := 0x8000#16, last := 0xFFFF#16 }]

/-- One step with the word `w` at `PC` completes in a state with the property. -/
def oneStep (s : State) (w : Nat) (p : State → Bool) : Bool :=
  match step (s.withFetchWord 16 w) with
  | .next t => p t
  | .fault _ => false
  | .refused _ => false

/-- One step with the word `w` at `PC` is refused so. -/
def refusedWith (s : State) (w : Nat) (r : Refusal) : Bool :=
  match step (s.withFetchWord 16 w) with
  | .next _ => false
  | .fault _ => false
  | .refused r' => r' == r

/-- The instruction completes. -/
def completes (i : Instr) (s : State) : Bool :=
  match exec i s with
  | .next _ => true
  | .fault _ => false
  | .refused _ => false

/-- `mem[a]`. -/
def word (t : State) (a : Word) : Word := memWord t.mem a

def zscv (z s c v : Bool) : Flags := { z := z, s := s, c := c, v := v }

/-! ## Well-formedness: the ten jumps with `cond` bit 11 set and `off8` = 0 (spec/30_encoding.md R77) -/

theorem test_wellFormed_refuses_jz_0 : Instr.wellFormed (.jz 0#8) = false ∧ Instr.wellFormed (.jz 1#8) = true := by decide
theorem test_wellFormed_refuses_je_0 : Instr.wellFormed (.je 0#8) = false ∧ Instr.wellFormed (.je 1#8) = true := by decide
theorem test_wellFormed_refuses_js_0 : Instr.wellFormed (.js 0#8) = false ∧ Instr.wellFormed (.js 1#8) = true := by decide
theorem test_wellFormed_refuses_jc_0 : Instr.wellFormed (.jc 0#8) = false ∧ Instr.wellFormed (.jc 1#8) = true := by decide
theorem test_wellFormed_refuses_juge_0 : Instr.wellFormed (.juge 0#8) = false ∧ Instr.wellFormed (.juge 1#8) = true := by decide
theorem test_wellFormed_refuses_jo_0 : Instr.wellFormed (.jo 0#8) = false ∧ Instr.wellFormed (.jo 1#8) = true := by decide
theorem test_wellFormed_refuses_jule_0 : Instr.wellFormed (.jule 0#8) = false ∧ Instr.wellFormed (.jule 1#8) = true := by decide
theorem test_wellFormed_refuses_jslt_0 : Instr.wellFormed (.jslt 0#8) = false ∧ Instr.wellFormed (.jslt 1#8) = true := by decide
theorem test_wellFormed_refuses_jsle_0 : Instr.wellFormed (.jsle 0#8) = false ∧ Instr.wellFormed (.jsle 1#8) = true := by decide
theorem test_wellFormed_refuses_j_0 : Instr.wellFormed (.j 0#8) = false ∧ Instr.wellFormed (.j 1#8) = true := by decide
theorem test_wellFormed_takes_jn_0 : Instr.wellFormed (.jn 0#8) = true ∧ Instr.wellFormed (.jnz 0#8) = true := by decide

/-! ## Decoding: the encodings of spec/40 to 46, written out by field -/

theorem test_decode_logic :
    decode 0b00000_011_001_00_010#16 = .ok (.and 3#3 1#3 2#3) ∧
    decode 0b00000_011_001_01_010#16 = .ok (.or 3#3 1#3 2#3) ∧
    decode 0b00000_011_001_10_010#16 = .ok (.xor 3#3 1#3 2#3) ∧
    decode 0b00000_000_001_11_010#16 = .ok (.cmp 1#3 2#3) := by
  refine ⟨?_, ?_, ?_, ?_⟩ <;> decide

theorem test_decode_logic_immediate :
    decode 0b00001_011_001_00_010#16 = .ok (.andi 3#3 1#3 2#3) ∧
    decode 0b00001_011_001_01_010#16 = .ok (.ori 3#3 1#3 2#3) ∧
    decode 0b00001_011_001_10_010#16 = .ok (.xori 3#3 1#3 2#3) ∧
    decode 0b00001_000_001_11_010#16 = .ok (.cmpi 1#3 2#3) := by
  refine ⟨?_, ?_, ?_, ?_⟩ <;> decide

theorem test_decode_arith :
    decode 0b00010_011_001_00_010#16 = .ok (.add 3#3 1#3 2#3) ∧
    decode 0b00010_011_001_01_010#16 = .ok (.adc 3#3 1#3 2#3) ∧
    decode 0b00010_011_001_10_010#16 = .ok (.sub 3#3 1#3 2#3) ∧
    decode 0b00010_011_001_11_010#16 = .ok (.sbb 3#3 1#3 2#3) := by
  refine ⟨?_, ?_, ?_, ?_⟩ <;> decide

theorem test_decode_arith_immediate :
    decode 0b00011_011_001_00_010#16 = .ok (.addi 3#3 1#3 2#3) ∧
    decode 0b00011_011_001_01_010#16 = .ok (.adci 3#3 1#3 2#3) ∧
    decode 0b00011_011_001_10_010#16 = .ok (.subi 3#3 1#3 2#3) ∧
    decode 0b00011_011_001_11_010#16 = .ok (.sbbi 3#3 1#3 2#3) := by
  refine ⟨?_, ?_, ?_, ?_⟩ <;> decide

theorem test_decode_shift :
    decode 0b00100_011_001_00_010#16 = .ok (.sll 3#3 1#3 2#3) ∧
    decode 0b00100_011_001_01_010#16 = .ok (.rot 3#3 1#3 2#3) ∧
    decode 0b00100_011_001_10_010#16 = .ok (.srl 3#3 1#3 2#3) ∧
    decode 0b00100_011_001_11_010#16 = .ok (.sra 3#3 1#3 2#3) := by
  refine ⟨?_, ?_, ?_, ?_⟩ <;> decide

theorem test_decode_shift_immediate :
    decode 0b00101_011_001_00_010#16 = .ok (.slli 3#3 1#3 2#3) ∧
    decode 0b00101_011_001_01_010#16 = .ok (.roti 3#3 1#3 2#3) ∧
    decode 0b00101_011_001_10_010#16 = .ok (.srli 3#3 1#3 2#3) ∧
    decode 0b00101_011_001_11_010#16 = .ok (.srai 3#3 1#3 2#3) := by
  refine ⟨?_, ?_, ?_, ?_⟩ <;> decide

theorem test_decode_window :
    decode 0b00111_000_000_11_101#16 = .ok (.adjw1 5#3) ∧
    decode 0b00111_110_001_11_101#16 = .ok (.adjw2 6#3 5#3) := by
  refine ⟨?_, ?_⟩ <;> decide

theorem test_decode_load_store :
    decode 0b01000_011_001_10010#16 = .ok (.ld 3#3 1#3 18#5) ∧
    decode 0b01001_011_001_10010#16 = .ok (.ldi 3#3 1#3 18#5) ∧
    decode 0b01010_011_001_10010#16 = .ok (.st 3#3 1#3 18#5) ∧
    decode 0b01011_011_001_10010#16 = .ok (.sti 3#3 1#3 18#5) ∧
    decode 0b01100_011_001_10010#16 = .ok (.ldx 3#3 1#3 18#5) ∧
    decode 0b01110_011_001_10010#16 = .ok (.stx 3#3 1#3 18#5) := by
  refine ⟨?_, ?_, ?_, ?_, ?_, ?_⟩ <;> decide

theorem test_decode_wide_field :
    decode 0b01101_011_10000010#16 = .ok (.ldxz 3#3 130#8) ∧
    decode 0b01111_011_10000010#16 = .ok (.stxz 3#3 130#8) ∧
    decode 0b10000_011_10000010#16 = .ok (.mova 3#3 130#8) ∧
    decode 0b10001_011_10000010#16 = .ok (.movi 3#3 130#8) ∧
    decode 0b10010_011_10000010#16 = .ok (.jal 3#3 130#8) ∧
    decode 0b10111_011_00000000#16 = .ok (.jr 3#3) ∧
    decode 0b110_1000000000101#16 = .ok (.exti 4101#13) := by
  refine ⟨?_, ?_, ?_, ?_, ?_, ?_, ?_⟩ <;> decide

theorem test_decode_jumps_cond_0 :
    decode 0b1011_0000_10000010#16 = .ok (.jnz 130#8) ∧
    decode 0b1011_0001_10000010#16 = .ok (.jns 130#8) ∧
    decode 0b1011_0010_10000010#16 = .ok (.jnc 130#8) ∧
    decode 0b1011_0011_10000010#16 = .ok (.jno 130#8) ∧
    decode 0b1011_0100_10000010#16 = .ok (.jugt 130#8) ∧
    decode 0b1011_0101_10000010#16 = .ok (.jsge 130#8) ∧
    decode 0b1011_0110_10000010#16 = .ok (.jsgt 130#8) ∧
    decode 0b1011_0111_10000010#16 = .ok (.jn 130#8) := by
  refine ⟨?_, ?_, ?_, ?_, ?_, ?_, ?_, ?_⟩ <;> decide

theorem test_decode_jumps_cond_1 :
    decode 0b1011_1000_10000010#16 = .ok (.jz 130#8) ∧
    decode 0b1011_1001_10000010#16 = .ok (.js 130#8) ∧
    decode 0b1011_1010_10000010#16 = .ok (.jc 130#8) ∧
    decode 0b1011_1011_10000010#16 = .ok (.jo 130#8) ∧
    decode 0b1011_1100_10000010#16 = .ok (.jule 130#8) ∧
    decode 0b1011_1101_10000010#16 = .ok (.jslt 130#8) ∧
    decode 0b1011_1110_10000010#16 = .ok (.jsle 130#8) ∧
    decode 0b1011_1111_10000010#16 = .ok (.j 130#8) := by
  refine ⟨?_, ?_, ?_, ?_, ?_, ?_, ?_, ?_⟩ <;> decide

/-- JNE, JULT, JE and JUGE: their words decode to JNZ, JNC, JZ and JC (R81). -/
theorem test_decode_other_spellings :
    encode (.jne 130#8) = 0b1011_0000_10000010#16 ∧ decode (encode (.jne 130#8)) = .ok (.jnz 130#8) ∧
    encode (.jult 130#8) = 0b1011_0010_10000010#16 ∧ decode (encode (.jult 130#8)) = .ok (.jnc 130#8) ∧
    encode (.je 130#8) = 0b1011_1000_10000010#16 ∧ decode (encode (.je 130#8)) = .ok (.jz 130#8) ∧
    encode (.juge 130#8) = 0b1011_1010_10000010#16 ∧ decode (encode (.juge 130#8)) = .ok (.jc 130#8) := by
  refine ⟨?_, ?_, ?_, ?_, ?_, ?_, ?_, ?_⟩ <;> decide

/-- JR is tested before the jumps with `cond` bit 11 set; a word with that bit clear and zeros below is a jump (R77). -/
theorem test_decode_jr_before_jumps :
    decode 0xBF00#16 = .ok (.jr 7#3) ∧ decode 0xB800#16 = .ok (.jr 0#3) ∧ decode 0xB000#16 = .ok (.jnz 0#8) ∧
    decode 0xB700#16 = .ok (.jn 0#8) := by
  refine ⟨?_, ?_, ?_, ?_⟩ <;> decide

/-- K1 to K9, A28 and W9. -/
theorem test_decode_unlisted :
    decode 0x3000#16 = .error .unlistedOpcode ∧ decode 0x9800#16 = .error .unlistedOpcode ∧
    decode 0xA000#16 = .error .unlistedOpcode ∧ decode 0xE000#16 = .error .unlistedOpcode ∧
    decode 0xFFFF#16 = .error .unlistedOpcode ∧ decode 0x0118#16 = .error .compareWithRd ∧
    decode 0x0918#16 = .error .compareWithRd ∧ decode 0x033A#16 = .error .compareWithRd ∧
    decode 0x3800#16 = .error .windowPattern ∧ decode 0x3918#16 = .error .windowPattern ∧
    decode 0x3858#16 = .error .windowPattern := by
  refine ⟨?_, ?_, ?_, ?_, ?_, ?_, ?_, ?_, ?_, ?_, ?_⟩ <;> decide

theorem test_unlisted_step_refused : refusedWith State.reset 0x3000 (.encodingNotListed .unlistedOpcode) = true := by decide

/-! ## Single steps -/

theorem test_add_A1 :
    oneStep (start [(0x0081#16, 0x7FFF#16), (0x0082#16, 0x0001#16)]) 0x1322 (fun t => regWord t 3 == 0x8000#16 && t.flags == zscv false true false true) = true := by decide
theorem test_add_A3 :
    oneStep (start [(0x0081#16, 0x8000#16), (0x0082#16, 0x8000#16)]) 0x1322 (fun t => regWord t 3 == 0x0000#16 && t.flags == zscv true false true true) = true := by decide
theorem test_adc_A7 :
    oneStep ((start [(0x0081#16, 0xFFFF#16), (0x0082#16, 0x0000#16)]).setFlags (zscv false false true false)) 0x132A (fun t => regWord t 3 == 0x0000#16 && t.flags == zscv true false true false) = true := by decide
theorem test_adc_A9 :
    oneStep ((start [(0x0081#16, 0x0001#16), (0x0082#16, 0x0002#16)]).setFlags (zscv false false false false)) 0x132A (fun t => regWord t 3 == 0x0003#16 && t.flags == zscv false false false false) = true := by decide
theorem test_sub_A11 :
    oneStep (start [(0x0081#16, 0x0000#16), (0x0082#16, 0x0001#16)]) 0x1332 (fun t => regWord t 3 == 0xFFFF#16 && t.flags == zscv false true false false) = true := by decide
theorem test_sub_A12 :
    oneStep (start [(0x0081#16, 0x8000#16), (0x0082#16, 0x0001#16)]) 0x1332 (fun t => regWord t 3 == 0x7FFF#16 && t.flags == zscv false false true true) = true := by decide
theorem test_sbb_A16 :
    oneStep ((start [(0x0081#16, 0x0005#16), (0x0082#16, 0x0003#16)]).setFlags (zscv false false false false)) 0x133A (fun t => regWord t 3 == 0x0001#16 && t.flags == zscv false false true false) = true := by decide
theorem test_sbb_A18 :
    oneStep ((start [(0x0081#16, 0x0000#16), (0x0082#16, 0xFFFF#16)]).setFlags (zscv false false false false)) 0x133A (fun t => regWord t 3 == 0x0000#16 && t.flags == zscv true false false false) = true := by decide
theorem test_and_B1 :
    oneStep (start [(0x0081#16, 0xF0F0#16), (0x0082#16, 0x0FF0#16)]) 0x0322 (fun t => regWord t 3 == 0x00F0#16 && t.flags.z == false && t.flags.s == false) = true := by decide
theorem test_or_B3 :
    oneStep (start [(0x0081#16, 0xF0F0#16), (0x0082#16, 0x0F0F#16)]) 0x032A (fun t => regWord t 3 == 0xFFFF#16 && t.flags.z == false && t.flags.s == true) = true := by decide
theorem test_xor_B4 :
    oneStep (start [(0x0081#16, 0xABCD#16)]) 0x0331 (fun t => regWord t 3 == 0x0000#16 && t.flags.z == true && t.flags.s == false) = true := by decide
theorem test_xor_B5 :
    oneStep ((start [(0x0081#16, 0xFFFF#16), (0x0082#16, 0x7FFF#16)]).setFlags (zscv false false true true)) 0x0332 (fun t => regWord t 3 == 0x8000#16 && t.flags.z == false && t.flags.s == true) = true := by decide
theorem test_sll_H1 :
    oneStep (start [(0x0081#16, 0x1234#16), (0x0082#16, 0x0004#16)]) 0x2322 (fun t => regWord t 3 == 0x2340#16 && t.flags.z == false && t.flags.s == false) = true := by decide
theorem test_srl_H5 :
    oneStep (start [(0x0081#16, 0x8234#16), (0x0082#16, 0x0004#16)]) 0x2332 (fun t => regWord t 3 == 0x0823#16 && t.flags.z == false && t.flags.s == false) = true := by decide
theorem test_sra_H7 :
    oneStep (start [(0x0081#16, 0x8234#16), (0x0082#16, 0x0004#16)]) 0x233A (fun t => regWord t 3 == 0xF823#16 && t.flags.z == false && t.flags.s == true) = true := by decide
theorem test_sra_H8 :
    oneStep (start [(0x0081#16, 0x7FFF#16), (0x0082#16, 0x000F#16)]) 0x233A (fun t => regWord t 3 == 0x0000#16 && t.flags.z == true && t.flags.s == false) = true := by decide
theorem test_rot_H9 :
    oneStep (start [(0x0081#16, 0x1234#16), (0x0082#16, 0x0004#16)]) 0x232A (fun t => regWord t 3 == 0x2341#16 && t.flags.z == false && t.flags.s == false) = true := by decide
theorem test_slli_H12 :
    oneStep (start [(0x0081#16, 0xC001#16)]) 0x2B20 (fun t => regWord t 3 == 0x8002#16 && t.flags.z == false && t.flags.s == true) = true := by decide
theorem test_srli_H14 :
    oneStep (start [(0x0081#16, 0x8234#16)]) 0x2B33 (fun t => regWord t 3 == 0x0823#16 && t.flags.z == false && t.flags.s == false) = true := by decide
theorem test_srai_H15 :
    oneStep (start [(0x0081#16, 0x8234#16)]) 0x2B3B (fun t => regWord t 3 == 0xF823#16 && t.flags.z == false && t.flags.s == true) = true := by decide
theorem test_roti_H18 :
    oneStep (start [(0x0081#16, 0x1234#16)]) 0x2B2F (fun t => regWord t 3 == 0x3412#16 && t.flags.z == false && t.flags.s == false) = true := by decide
theorem test_addi_A5 :
    oneStep (afterExti 0x0246#13 [(0x0081#16, 0x0001#16)]) 0x1B24 (fun t => regWord t 3 == 0x1235#16 && t.flags == zscv false false false false && !t.hasExt13) = true := by decide
theorem test_adci_A10 :
    oneStep ((afterExti 0x0000#13 [(0x0081#16, 0x0003#16)]).setFlags (zscv false false true false)) 0x1B2C (fun t => regWord t 3 == 0x0008#16 && t.flags == zscv false false false false && !t.hasExt13) = true := by decide
theorem test_subi_A15 :
    oneStep (afterExti 0x0000#13 [(0x0081#16, 0x0001#16)]) 0x1B31 (fun t => regWord t 3 == 0x0000#16 && t.flags == zscv true false true false && !t.hasExt13) = true := by decide
theorem test_sbbi_A19 :
    oneStep ((afterExti 0x0000#13 [(0x0081#16, 0x0004#16)]).setFlags (zscv false false false false)) 0x1B3C (fun t => regWord t 3 == 0xFFFF#16 && t.flags == zscv false true false false && !t.hasExt13) = true := by decide
theorem test_andi_B6 :
    oneStep (afterExti 0x001F#13 [(0x0081#16, 0x1234#16)]) 0x0B27 (fun t => regWord t 3 == 0x0034#16 && t.flags.z == false && t.flags.s == false && !t.hasExt13) = true := by decide
theorem test_ori_B7 :
    oneStep (afterExti 0x1000#13 [(0x0081#16, 0x0001#16)]) 0x0B28 (fun t => regWord t 3 == 0x8001#16 && t.flags.z == false && t.flags.s == true && !t.hasExt13) = true := by decide
theorem test_xori_B8 :
    oneStep (afterExti 0x1FFF#13 [(0x0081#16, 0x1234#16)]) 0x0B37 (fun t => regWord t 3 == 0xEDCB#16 && t.flags.z == false && t.flags.s == true && !t.hasExt13) = true := by decide
theorem test_slli_H20 :
    oneStep (afterExti 0x0123#13 [(0x0081#16, 0x0001#16)]) 0x2B20 (fun t => regWord t 3 == 0x0002#16 && t.flags.z == false && t.flags.s == false && !t.hasExt13) = true := by decide
theorem test_cmp_A22 :
    oneStep (start [(0x0081#16, 0x8000#16), (0x0082#16, 0x0001#16)]) 0x003A (fun t => t.flags == zscv false false true true) = true := by decide
theorem test_cmp_A23 :
    oneStep (start [(0x0081#16, 0x0001#16), (0x0082#16, 0x8000#16)]) 0x003A (fun t => t.flags == zscv false true false true) = true := by decide
theorem test_cmpi_A24 :
    oneStep (afterExti 0x0246#13 [(0x0081#16, 0x1234#16)]) 0x083C (fun t => t.flags == zscv true false true false) = true := by decide
theorem test_sll_H4 :
    refusedWith (start [(0x0081#16, 0x0003#16), (0x0082#16, 0x0010#16)]) 0x2322 .shiftAmountAbove15 = true := by decide
theorem test_rot_H11 :
    refusedWith (start [(0x0081#16, 0x0003#16), (0x0082#16, 0xFFFF#16)]) 0x232A .shiftAmountAbove15 = true := by decide
theorem test_adjw1_W2 :
    oneStep (start []) 0x381C (fun t => t.w == 0x000C#13) = true := by decide
theorem test_adjw1_W5 :
    oneStep ((start []).setW 0x1FFE#13) 0x381B (fun t => t.w == 0x0001#13) = true := by decide
theorem test_adjw2_W6 :
    oneStep (start []) 0x3E3F (fun t => t.w == 0x000F#13 && regWord t 6 == 0x0080#16) = true := by decide
theorem test_adjw2_W8 :
    oneStep (afterExti 0x1FFF#13 []) 0x3E3E (fun t => t.w == 0x000E#13 && regWord t 6 == 0x0080#16) = true := by decide
theorem test_ld_M2 :
    oneStep (start [(0x0081#16, 0x0200#16), (0x01FF#16, 0x1111#16)]) 0x433F (fun t => regWord t 3 == 0x1111#16) = true := by decide
theorem test_ld_M3 :
    oneStep (afterExti 0x0246#13 [(0x0081#16, 0x0001#16), (0x1235#16, 0x2222#16)]) 0x4324 (fun t => regWord t 3 == 0x2222#16) = true := by decide
theorem test_ldi_M8 :
    oneStep (start [(0x0081#16, 0x0000#16)]) 0x4B20 (fun t => regWord t 3 == 0x4B20#16) = true := by decide
theorem test_ldi_M9 :
    oneStep (afterExti 0x0008#13 [(0x0081#16, 0x0001#16), (0x0142#16, 0x5555#16)]) 0x4B20 (fun t => regWord t 3 == 0x5555#16) = true := by decide
theorem test_st_M11 :
    oneStep (start [(0x0081#16, 0x0200#16), (0x0083#16, 0xBEEF#16)]) 0x533F (fun t => word t 0x01FF#16 == 0xBEEF#16) = true := by decide
theorem test_st_M12 :
    oneStep (start [(0x0081#16, 0x0082#16), (0x0083#16, 0x9999#16)]) 0x5320 (fun t => regWord t 2 == 0x9999#16) = true := by decide
theorem test_sti_M14 :
    oneStep (start [(0x0081#16, 0x0010#16), (0x0083#16, 0xCCCC#16)]) 0x5B24 (fun t => word t 0x0114#16 == 0xCCCC#16) = true := by decide
theorem test_ldx_M16 :
    oneStep ((start [(0x0081#16, 0x0020#16)]).setBusIn [0x0041#16]) 0x6321 (fun t => regWord t 3 == 0x0041#16 && t.busLog == [.read 0x0021#16 0x0041#16]) = true := by decide
theorem test_ldxz_M18 :
    oneStep ((start []).setBusIn [0x0043#16]) 0x6B80 (fun t => regWord t 3 == 0x0043#16 && t.busLog == [.read 0xFF80#16 0x0043#16]) = true := by decide
theorem test_stx_M20 :
    oneStep (start [(0x0081#16, 0x0020#16), (0x0083#16, 0x0055#16)]) 0x733E (fun t => t.busLog == [.write 0x001E#16 0x0055#16]) = true := by decide
theorem test_stxz_M22 :
    oneStep (start [(0x0083#16, 0x0077#16)]) 0x7BFF (fun t => t.busLog == [.write 0xFFFF#16 0x0077#16]) = true := by decide
theorem test_movi_E2 :
    oneStep (start []) 0x8B80 (fun t => regWord t 3 == 0xFF80#16) = true := by decide
theorem test_movi_E3 :
    oneStep (afterExti 0x0246#13 []) 0x8B04 (fun t => regWord t 3 == 0x1234#16) = true := by decide
theorem test_mova_E7 :
    oneStep (start []) 0x83FF (fun t => regWord t 3 == 0x0100#16) = true := by decide
theorem test_mova_E8 :
    oneStep (afterExti 0x01E0#13 []) 0x8300 (fun t => regWord t 3 == 0x1002#16) = true := by decide
theorem test_exti_E9 :
    oneStep (afterExti 0x0111#13 []) 0xC246 (fun t => t.ext13 == 0x0246#13 && t.hasExt13 && t.pc == 0x0102#16) = true := by decide
theorem test_jal_J7 :
    oneStep (start []) 0x9720 (fun t => regWord t 7 == 0x0101#16 && t.pc == 0x0121#16) = true := by decide
theorem test_jal_J8 :
    oneStep (afterExti 0x0200#13 []) 0x9700 (fun t => regWord t 7 == 0x0102#16 && t.pc == 0x1102#16) = true := by decide
theorem test_jr_J10 :
    oneStep (start [(0x0082#16, 0xFFFF#16)]) 0xBA00 (fun t => t.pc == 0xFFFF#16) = true := by decide
theorem test_jr_J11 :
    refusedWith (afterExti 0x0001#13 [(0x0087#16, 0x0121#16)]) 0xBF00 .jrAfterExti = true := by decide
theorem test_j_J5 :
    oneStep (afterExti 0x1FE9#13 []) 0xBF06 (fun t => t.pc == 0x0050#16) = true := by decide
theorem test_j_J6 :
    oneStep ((start []).setPc 0xFFF8#16) 0xBF10 (fun t => t.pc == 0x0009#16) = true := by decide
theorem test_jn_J12 :
    oneStep (start []) 0xB710 (fun t => t.pc == 0x0101#16) = true := by decide
theorem test_jn_J13 : refusedWith (afterExti 0x0001#13 []) 0xB710 .longFormUpperBits = true := by decide
theorem test_jz_J14 :
    oneStep ((start []).setFlags (zscv true false false false)) 0xB810 (fun t => t.pc == 0x0111#16) = true := by decide
theorem test_jz_J15 :
    oneStep ((start []).setFlags (zscv false false false false)) 0xB810 (fun t => t.pc == 0x0101#16) = true := by decide
theorem test_jnz_J16 :
    oneStep ((start []).setFlags (zscv false false false false)) 0xB010 (fun t => t.pc == 0x0111#16) = true := by decide
theorem test_jc_J17 :
    oneStep ((start []).setFlags (zscv false false true false)) 0xBA10 (fun t => t.pc == 0x0111#16) = true := by decide
theorem test_jnc_J18 :
    oneStep ((start []).setFlags (zscv false false true false)) 0xB210 (fun t => t.pc == 0x0101#16) = true := by decide
theorem test_js_J19 :
    oneStep ((start []).setFlags (zscv false true false false)) 0xB910 (fun t => t.pc == 0x0111#16) = true := by decide
theorem test_jns_R156 :
    oneStep ((start []).setFlags (zscv false false false false)) 0xB110 (fun t => t.pc == 0x0111#16) = true := by decide
theorem test_jo_J20 :
    oneStep ((start []).setFlags (zscv false false false false)) 0xBB10 (fun t => t.pc == 0x0101#16) = true := by decide
theorem test_jno_R160 :
    oneStep ((start []).setFlags (zscv false false false false)) 0xB310 (fun t => t.pc == 0x0111#16) = true := by decide
theorem test_jugt_J21 :
    oneStep ((start []).setFlags (zscv false false true false)) 0xB410 (fun t => t.pc == 0x0111#16) = true := by decide
theorem test_jugt_J22 :
    oneStep ((start []).setFlags (zscv true false true false)) 0xB410 (fun t => t.pc == 0x0101#16) = true := by decide
theorem test_jule_J23 :
    oneStep ((start []).setFlags (zscv true false true false)) 0xBC10 (fun t => t.pc == 0x0111#16) = true := by decide
theorem test_jslt_J24 :
    oneStep ((start []).setFlags (zscv false true false false)) 0xBD10 (fun t => t.pc == 0x0111#16) = true := by decide
theorem test_jslt_J25 :
    oneStep ((start []).setFlags (zscv false true false true)) 0xBD10 (fun t => t.pc == 0x0101#16) = true := by decide
theorem test_jsge_J26 :
    oneStep ((start []).setFlags (zscv false true false true)) 0xB510 (fun t => t.pc == 0x0111#16) = true := by decide
theorem test_jsgt_J27 :
    oneStep ((start []).setFlags (zscv true false false false)) 0xB610 (fun t => t.pc == 0x0101#16) = true := by decide
theorem test_jsle_J28 :
    oneStep ((start []).setFlags (zscv true false false false)) 0xBE10 (fun t => t.pc == 0x0111#16) = true := by decide

/-- The other spellings run as the words they share: JNE as J16, JULT as J18, JE as J14, JUGE as J17. -/
theorem test_other_spellings_run :
    completes (.jne 0x10#8) State.reset = true ∧ completes (.jult 0x10#8) State.reset = true ∧
    completes (.je 0x10#8) State.reset = true ∧ completes (.juge 0x10#8) State.reset = true := by
  refine ⟨?_, ?_, ?_, ?_⟩ <;> decide

/-! ## Translations (Q4, Q7, Q15, Q16) -/

theorem test_expand_Q4 : expand (.entr 6#3 8#16) = [.exti 0x1FFF#13, .adjw2 6#3 0#3] := by decide
theorem test_expand_Q7 : expand (.slli 3#3 1#3 12#4) = [.slli 3#3 1#3 7#3, .slli 3#3 3#3 3#3] := by decide
theorem test_expand_Q15 : expand (.rori 3#3 1#3 1#4) = [.roti 3#3 1#3 7#3, .roti 3#3 3#3 6#3] := by decide
theorem test_expand_Q16 :
    (expand (.xchg 1#3 2#3)).map encode = [0x0132#16, 0x0251#16, 0x0132#16] := by decide

/-! ## A case that meets the hypotheses of each statement that has some

`half` has memory at 0x0000 to 0x7FFF, so that presence says something; its registers are the words 0x0080 to 0x0087. -/

theorem witness_DecodeOfEncode :
    Instr.wellFormed (.j 1#8) = true ∧ Instr.wellFormed (.j 0xFF#8) = true ∧ Instr.wellFormed (.jn 0#8) = true ∧
    Instr.wellFormed (.adjw2 7#3 7#3) = true := by decide

theorem witness_EncodeOfDecode : decode 0xBFFF#16 = .ok (.j 0xFF#8) ∧ decode 0x0000#16 = .ok (.and 0#3 0#3 0#3) := by
  refine ⟨?_, ?_⟩ <;> decide

theorem witness_UnlistedWordsAreExactlyThese_step :
    memPresent (State.reset.withFetchWord 16 0x3000) (State.reset.withFetchWord 16 0x3000).pc = true ∧
    decode (memWord (State.reset.withFetchWord 16 0x3000).mem (State.reset.withFetchWord 16 0x3000).pc) =
      .error .unlistedOpcode := by
  refine ⟨?_, ?_⟩ <;> decide

theorem witness_StepRunsTheDecodedInstruction :
    memPresent (half.withFetchWord 16 0x1322) (half.withFetchWord 16 0x1322).pc = true ∧
    decode (memWord (half.withFetchWord 16 0x1322).mem (half.withFetchWord 16 0x1322).pc) =
      .ok (.add 3#3 1#3 2#3) := by
  refine ⟨?_, ?_⟩ <;> decide

theorem witness_PlacedWordIsExecutedNext :
    decodeTableWord 16 0x1322 = some (.add 3#3 1#3 2#3) ∧ decodeTableWord 16 0xBFFF = some (.j 0xFF#8) := by
  refine ⟨?_, ?_⟩ <;> decide

theorem witness_InstructionsCompleteExactlyWhenDefined_fetch :
    memPresent (half.setPc 0x8000#16) (half.setPc 0x8000#16).pc = false ∧ memPresent half 0x7FFF#16 = true ∧
    memPresent (half.setPc 0xFFFF#16) (half.setPc 0xFFFF#16).pc = false := by
  refine ⟨?_, ?_, ?_⟩ <;> decide

/-- A defined LDI whose data word is absent: base 0x0100 and offset -1, register 1 holding 0x7F01 and 0x7F00. -/
theorem witness_InstructionsCompleteExactlyWhenDefined_absent :
    formDefined (.ldi 3#3 1#3 31#5) (half.setMem (putWord [] 0x0081#16 0x7F01#16)) ∧
    ∃ a ∈ accessedAt (.ldi 3#3 1#3 31#5) (half.setMem (putWord [] 0x0081#16 0x7F01#16)),
      memPresent (half.setMem (putWord [] 0x0081#16 0x7F01#16)) a = false :=
  ⟨(fun h => by cases h), 0x8000#16, by decide, by decide⟩

theorem witness_InstructionsCompleteExactlyWhenDefined_present :
    formDefined (.ldi 3#3 1#3 31#5) (half.setMem (putWord [] 0x0081#16 0x7F00#16)) ∧
    ∀ a ∈ accessedAt (.ldi 3#3 1#3 31#5) (half.setMem (putWord [] 0x0081#16 0x7F00#16)),
      memPresent (half.setMem (putWord [] 0x0081#16 0x7F00#16)) a = true :=
  ⟨(fun h => by cases h), by
    simp only [accessedAt, List.mem_cons, List.not_mem_nil, or_false, forall_eq_or_imp, forall_eq]
    decide⟩

theorem witness_EndOfRunStateIsFixed :
    (half.withFetchWord 16 0xBFFF).ended ∧
    memPresent (half.withFetchWord 16 0xBFFF) (half.withFetchWord 16 0xBFFF).pc = true :=
  ⟨⟨rfl, by decide⟩, by decide⟩

theorem witness_StepKeepsMemoryCanonical :
    (half.withFetchWord 16 0x8B7F).Inv ∧ ∃ t, step (half.withFetchWord 16 0x8B7F) = .next t :=
  ⟨by decide, _, rfl⟩

theorem witness_CanonicalMemoriesAreEqualData :
    Memory.wf [(0, 1#8), (131071, 2#8)] ∧ Memory.wf (Memory.put (Memory.put [] 131071 2#8) 0 1#8) ∧
    ∀ k, Memory.stored [(0, 1#8), (131071, 2#8)] k =
      Memory.stored (Memory.put (Memory.put [] 131071 2#8) 0 1#8) k :=
  ⟨by decide, by decide, fun _ => rfl⟩

theorem witness_WindowsAreEqualOrDisjoint : regAddr 0x1FFF#13 7#3 = 0xFFFF#16 ∧ regAddr 0#13 0#3 = 0#16 := by decide

/-- M12 and M4: register 2 is the word 0x0082. -/
theorem witness_RegistersAreMemoryWords :
    (∃ t, exec (.st 3#3 1#3 0#5) (start [(0x0081#16, 0x0082#16)]) = .next t) ∧
    (∃ t, exec (.ld 3#3 1#3 0#5) (start [(0x0081#16, 0x0082#16)]) = .next t) ∧
    regWord (start [(0x0081#16, 0x0082#16)]) 1#3 + effOff5 (start [(0x0081#16, 0x0082#16)]) 0#5 =
      regAddr (start [(0x0081#16, 0x0082#16)]).w 2#3 :=
  ⟨⟨_, rfl⟩, ⟨_, rfl⟩, by decide⟩

/-- The store writes 0x0082 to register 2, the base of the load: the load then reads register 2 itself. -/
theorem witness_LoadAfterStoreSeesTheStoredWord :
    ∃ t u, exec (.st 3#3 1#3 0#5) (start [(0x0081#16, 0x0082#16), (0x0083#16, 0x0082#16)]) = .next t ∧
      exec (.ld 4#3 2#3 0#5) t = .next u ∧
      regWord t 2#3 + (0#5).signExtend 16 =
        regWord (start [(0x0081#16, 0x0082#16), (0x0083#16, 0x0082#16)]) 1#3 +
          effOff5 (start [(0x0081#16, 0x0082#16), (0x0083#16, 0x0082#16)]) 0#5 :=
  ⟨_, _, rfl, rfl, by decide⟩

/-- M15. -/
theorem witness_StoredCodeIsFetchedNext :
    (∃ t, exec (.sti 3#3 1#3 1#5) (start [(0x0081#16, 0#16), (0x0083#16, 0x8A55#16)]) = .next t) ∧
    regWord (start [(0x0081#16, 0#16), (0x0083#16, 0x8A55#16)]) 1#3 +
      effOff5 (start [(0x0081#16, 0#16), (0x0083#16, 0x8A55#16)]) 1#5 = 1#16 ∧
    decode (regWord (start [(0x0081#16, 0#16), (0x0083#16, 0x8A55#16)]) 3#3) = .ok (.movi 2#3 0x55#8) :=
  ⟨⟨_, rfl⟩, by decide, by decide⟩

/-- A form that stores a register, one that stores in the new window, one that stores data, one that stores nothing. -/
theorem witness_ExecStoresOnlyAtItsStoredAddress :
    (∃ t, exec (.movi 3#3 1#8) half = .next t) ∧ (∃ t, exec (.adjw2 6#3 7#3) half = .next t) ∧
    (∃ t, exec (.st 3#3 1#3 0#5) (start [(0x0081#16, 0x0200#16)]) = .next t) ∧
    (∃ t, exec (.cmp 1#3 2#3) half = .next t) ∧ storedAt (.cmp 1#3 2#3) half = none ∧
    storedAt (.adjw2 6#3 7#3) half = some 0x007E#16 :=
  ⟨⟨_, rfl⟩, ⟨_, rfl⟩, ⟨_, rfl⟩, ⟨_, rfl⟩, rfl, by decide⟩

theorem witness_OnlyAdjwMovesTheWindow :
    Instr.movesWindow (.movi 3#3 1#8) = false ∧ ∃ t, exec (.movi 3#3 1#8) half = .next t := ⟨rfl, _, rfl⟩

theorem witness_OnlyExtiLeavesAnExtension :
    (∃ t, exec (.exti 1#13) half = .next t) ∧ ∃ t, exec (.movi 3#3 1#8) (afterExti 1#13 []) = .next t :=
  ⟨⟨_, rfl⟩, _, rfl⟩

theorem witness_OtherInstructionsWriteNoFlag :
    Instr.isArith (.jal 7#3 1#8) = false ∧ Instr.isLogic (.jal 7#3 1#8) = false ∧
    ∃ t, exec (.jal 7#3 1#8) half = .next t := ⟨rfl, rfl, _, rfl⟩

theorem witness_BusAccessesAreExact :
    (∃ t, exec (.ldxz 3#3 1#8) half = .next t) ∧ (∃ t, exec (.stxz 3#3 1#8) half = .next t) ∧
    ∃ t, exec (.movi 3#3 1#8) half = .next t := ⟨⟨_, rfl⟩, ⟨_, rfl⟩, _, rfl⟩

theorem witness_NoStepChangesWhichWordsArePresent : ∃ t, step (half.withFetchWord 16 0x3819) = .next t := ⟨_, rfl⟩

theorem witness_InstructionsThatAreNoJumpAdvancePc :
    Instr.isJump (.movi 3#3 1#8) = false ∧ (∃ t, exec (.movi 3#3 1#8) half = .next t) ∧
    ∃ t, exec (.adjw1 1#3) (half.setPc 0xFFFF#16) = .next t := ⟨rfl, ⟨_, rfl⟩, _, rfl⟩

theorem witness_LogicResultsDoNotDependOnFlagsOrDraws :
    Instr.isLogic (.and 3#3 1#3 2#3) = true ∧ ∃ t, exec (.and 3#3 1#3 2#3) half = .next t := ⟨rfl, _, rfl⟩

theorem witness_AddAndAdcWriteSumAndFlags : regPresent half 1#3 ∧ regPresent half 2#3 ∧ regPresent half 3#3 :=
  ⟨rfl, rfl, rfl⟩
theorem witness_AddiAndAdciWriteSumAndFlags : regPresent half 1#3 ∧ regPresent half 3#3 := ⟨rfl, rfl⟩
theorem witness_SubAndSbbWriteDifferenceAndFlags : regPresent half 1#3 ∧ regPresent half 2#3 ∧ regPresent half 3#3 :=
  ⟨rfl, rfl, rfl⟩
theorem witness_SubiAndSbbiWriteDifferenceAndFlags : regPresent half 1#3 ∧ regPresent half 3#3 := ⟨rfl, rfl⟩
theorem witness_CmpAndCmpiWriteFlagsOnly : regPresent half 1#3 ∧ regPresent half 2#3 := ⟨rfl, rfl⟩

/-- The registers of the source's example S1. -/
theorem witness_AddThenAdcAddsDoubleWords :
    regPresent half 0#3 ∧ regPresent half 2#3 ∧ regPresent half 4#3 ∧ regPresent half 1#3 ∧ regPresent half 3#3 ∧
    regPresent half 5#3 ∧ (0#3 ≠ 3#3) ∧ (0#3 ≠ 5#3) ∧ (0#3 ≠ 1#3) :=
  ⟨rfl, rfl, rfl, rfl, rfl, rfl, by decide, by decide, by decide⟩

/-- The registers of the source's example S3. -/
theorem witness_SubThenSbbSubtractsDoubleWords :
    regPresent half 0#3 ∧ regPresent half 2#3 ∧ regPresent half 4#3 ∧ regPresent half 1#3 ∧ regPresent half 3#3 ∧
    regPresent half 5#3 ∧ (0#3 ≠ 3#3) ∧ (0#3 ≠ 5#3) ∧ (0#3 ≠ 1#3) :=
  ⟨rfl, rfl, rfl, rfl, rfl, rfl, by decide, by decide, by decide⟩

theorem witness_BitwiseInstructionsWriteResult : regPresent half 1#3 ∧ regPresent half 2#3 ∧ regPresent half 3#3 :=
  ⟨rfl, rfl, rfl⟩
theorem witness_BitwiseImmediatesWriteResult : regPresent half 1#3 ∧ regPresent half 3#3 := ⟨rfl, rfl⟩

/-- The amounts 0 and 15. -/
theorem witness_RegisterShiftsWriteResult :
    regPresent (start [(0x0082#16, 15#16)]) 1#3 ∧ regPresent (start [(0x0082#16, 15#16)]) 2#3 ∧
    regPresent (start [(0x0082#16, 15#16)]) 3#3 ∧ (regWord (start [(0x0082#16, 15#16)]) 2#3).toNat = 15 ∧ 15 ≤ 15 ∧
    (regWord (start [(0x0082#16, 0#16)]) 2#3).toNat = 0 :=
  ⟨rfl, rfl, rfl, by decide, by decide, by decide⟩

/-- The amounts 16 and 0. -/
theorem witness_RegisterShiftAmountRange :
    regPresent (start [(0x0082#16, 16#16)]) 1#3 ∧ regPresent (start [(0x0082#16, 16#16)]) 2#3 ∧
    Instr.rot 3#3 1#3 2#3 ∈ [Instr.sll 3#3 1#3 2#3, .srl 3#3 1#3 2#3, .sra 3#3 1#3 2#3, .rot 3#3 1#3 2#3] ∧
    15 < (regWord (start [(0x0082#16, 16#16)]) 2#3).toNat ∧
    (regWord (start [(0x0082#16, 0#16)]) 2#3).toNat = 0 ∧ regPresent (start [(0x0082#16, 0#16)]) 3#3 :=
  ⟨rfl, rfl, by decide, by decide, by decide, rfl⟩

theorem witness_ImmediateShiftsWriteResult : regPresent half 1#3 ∧ regPresent half 3#3 := ⟨rfl, rfl⟩

theorem witness_TranslatedShiftsEqualOneShift :
    regPresent half 1#3 ∧ regPresent half 3#3 ∧ (1#4 ≠ 0#4) ∧ (15#4 ≠ 0#4) := ⟨rfl, rfl, by decide, by decide⟩

theorem witness_AdjustWindowMovesTheWindow : half.hasExt13 = false ∧ (afterExti 0x1FFF#13 []).hasExt13 = true :=
  ⟨rfl, rfl⟩

/-- The short form, moving down past window 0. -/
theorem witness_AdjustWindowStoresTheOldBase_short :
    ((State.reset.setW 0#13).hasExt13 = false →
      ((0x1FFF#13).toNat : Int) = ((State.reset.setW 0#13).w.toNat + (7#3).toInt) % 8192) ∧
    ((State.reset.setW 0#13).hasExt13 = true →
      (0x1FFF#13).toNat =
        ((State.reset.setW 0#13).w.toNat + ((State.reset.setW 0#13).ext13 ++ 7#3).toNat) % 8192) ∧
    memPresent (State.reset.setW 0#13) (regAddr 0x1FFF#13 6#3) = true :=
  ⟨fun _ => by decide, (fun h => by cases h), rfl⟩

/-- The long form, -1. -/
theorem witness_AdjustWindowStoresTheOldBase_long :
    ((afterExti 0x1FFF#13 []).hasExt13 = false →
      ((0x000F#13).toNat : Int) = ((afterExti 0x1FFF#13 []).w.toNat + (7#3).toInt) % 8192) ∧
    ((afterExti 0x1FFF#13 []).hasExt13 = true →
      (0x000F#13).toNat =
        ((afterExti 0x1FFF#13 []).w.toNat + ((afterExti 0x1FFF#13 []).ext13 ++ 7#3).toNat) % 8192) ∧
    memPresent (afterExti 0x1FFF#13 []) (regAddr 0x000F#13 6#3) = true :=
  ⟨fun h => (nomatch (show true = false from h)), fun _ => by decide, rfl⟩

/-- A size with a short form and one with a long form. -/
theorem witness_EnterThenLeaveRestoresTheWindow :
    half.hasExt13 = false ∧ memPresent half (regAddr (half.w - (1#16).extractLsb' 0 13) 6#3) = true ∧
    memPresent half (regAddr (half.w - (8#16).extractLsb' 0 13) 6#3) = true := ⟨rfl, rfl, rfl⟩

theorem witness_LoadsReadMemory :
    longOk5 (start [(0x0081#16, 0x0200#16)]) 31#5 ∧ regPresent (start [(0x0081#16, 0x0200#16)]) 1#3 ∧
    regPresent (start [(0x0081#16, 0x0200#16)]) 3#3 ∧
    memPresent (start [(0x0081#16, 0x0200#16)])
      (regWord (start [(0x0081#16, 0x0200#16)]) 1#3 + effOff5 (start [(0x0081#16, 0x0200#16)]) 31#5) = true ∧
    memPresent (start [(0x0081#16, 0x0200#16)])
      ((start [(0x0081#16, 0x0200#16)]).pc + regWord (start [(0x0081#16, 0x0200#16)]) 1#3 +
        effOff5 (start [(0x0081#16, 0x0200#16)]) 31#5) = true ∧
    longOk5 (afterExti 1#13 []) 7#5 :=
  ⟨(fun h => by cases h), rfl, rfl, rfl, rfl, fun _ => rfl⟩

theorem witness_StoresWriteMemory :
    longOk5 (start [(0x0081#16, 0x0200#16)]) 31#5 ∧ regPresent (start [(0x0081#16, 0x0200#16)]) 1#3 ∧
    regPresent (start [(0x0081#16, 0x0200#16)]) 3#3 ∧
    memPresent (start [(0x0081#16, 0x0200#16)])
      (baseAddr (regWord (start [(0x0081#16, 0x0200#16)]) 1#3) (effOff5 (start [(0x0081#16, 0x0200#16)]) 31#5)) = true ∧
    memPresent (start [(0x0081#16, 0x0200#16)])
      (indexedAddr (start [(0x0081#16, 0x0200#16)]) (regWord (start [(0x0081#16, 0x0200#16)]) 1#3)
        (effOff5 (start [(0x0081#16, 0x0200#16)]) 31#5)) = true :=
  ⟨(fun h => by cases h), rfl, rfl, rfl, rfl⟩

theorem witness_BusLoadsWriteTheAnswer :
    regPresent half 3#3 ∧ longOk5 half 31#5 ∧ regPresent half 1#3 ∧ longOk8 half 0xFF#8 ∧
    longOk8 (afterExti 1#13 []) 7#8 :=
  ⟨rfl, (fun h => by cases h), rfl, (fun h => by cases h), fun _ => rfl⟩

theorem witness_BusStoresWriteTheBus :
    regPresent half 3#3 ∧ longOk5 half 31#5 ∧ regPresent half 1#3 ∧ longOk8 half 0xFF#8 :=
  ⟨rfl, (fun h => by cases h), rfl, (fun h => by cases h)⟩

theorem witness_MovaWritesAnAddress :
    longOk8 half 0xFF#8 ∧ regPresent half 3#3 ∧ longOk8 (afterExti 1#13 []) 7#8 ∧ regPresent (afterExti 1#13 []) 3#3 :=
  ⟨(fun h => by cases h), rfl, fun _ => rfl, rfl⟩

/-- The short form, and the long form with the fields 7 and 8. -/
theorem witness_MoviWritesAConstant :
    regPresent half 3#3 ∧ half.hasExt13 = false ∧ regPresent (afterExti 1#13 []) 3#3 ∧
    (afterExti 1#13 []).hasExt13 = true ∧ (7#8).toNat < 8 ∧ 8 ≤ (8#8).toNat :=
  ⟨rfl, rfl, rfl, rfl, by decide, by decide⟩

theorem witness_LongFormWithUpperBitsIsRefused :
    (afterExti 1#13 []).hasExt13 = true ∧ 8 ≤ (8#5).toNat ∧ 8 ≤ (31#5).toNat ∧ 8 ≤ (8#8).toNat ∧
    ∀ a ∈ accessedAt (.addi 3#3 1#3 7#3) (afterExti 1#13 []), memPresent (afterExti 1#13 []) a = true :=
  ⟨rfl, by decide, by decide, by decide, fun _ _ => rfl⟩

theorem witness_LongFormsReachEveryValue : regPresent half 3#3 ∧ regPresent half 1#3 := ⟨rfl, rfl⟩

theorem witness_AlwaysAndNeverJump : longOk8 half 0x80#8 ∧ longOk8 (afterExti 1#13 []) 7#8 :=
  ⟨(fun h => by cases h), fun _ => rfl⟩

theorem witness_SingleFlagJumps :
    longOk8 half 0x10#8 ∧ ∃ target : Bool → Word,
      ∀ b, target b = if b then half.pc + 1#16 + effOff8 half 0x10#8 else half.pc + 1#16 :=
  ⟨(fun h => by cases h), _, fun _ => rfl⟩

theorem witness_CombinedFlagJumps :
    longOk8 half 0x10#8 ∧ ∃ target : Bool → Word,
      ∀ b, target b = if b then half.pc + 1#16 + effOff8 half 0x10#8 else half.pc + 1#16 :=
  ⟨(fun h => by cases h), _, fun _ => rfl⟩

/-- J29 and J30: 3 against 5, and 0x8000 against 1. -/
theorem witness_CompareThenJumpComparesTheRegisters :
    regPresent (start [(0x0081#16, 3#16), (0x0082#16, 5#16)]) 1#3 ∧
    regPresent (start [(0x0081#16, 3#16), (0x0082#16, 5#16)]) 2#3 ∧
    (regWord (start [(0x0081#16, 3#16), (0x0082#16, 5#16)]) 1#3).toNat <
      (regWord (start [(0x0081#16, 3#16), (0x0082#16, 5#16)]) 2#3).toNat ∧
    (regWord (start [(0x0081#16, 0x8000#16), (0x0082#16, 1#16)]) 1#3).toInt <
      (regWord (start [(0x0081#16, 0x8000#16), (0x0082#16, 1#16)]) 2#3).toInt :=
  ⟨rfl, rfl, by decide, by decide⟩

theorem witness_JumpAndLinkWritesTheLink : longOk8 half 0x20#8 ∧ regPresent half 7#3 := ⟨(fun h => by cases h), rfl⟩

theorem witness_JumpRegister :
    half.hasExt13 = false ∧ regPresent half 7#3 ∧ (afterExti 1#13 []).hasExt13 = true := ⟨rfl, rfl, rfl⟩

theorem witness_CallThenReturnComesBack : longOk8 half 0x20#8 ∧ regPresent half 7#3 := ⟨(fun h => by cases h), rfl⟩

/-- J5: a jump from 0x0100 to 0x0050. -/
theorem witness_LongJumpReachesItsLabel :
    memPresent (start [(0x0100#16, 0xDFE9#16), (0x0101#16, 0xBF06#16)]) 0x0100#16 = true ∧
    memPresent (start [(0x0100#16, 0xDFE9#16), (0x0101#16, 0xBF06#16)]) (0x0100#16 + 1#16) = true ∧
    (0x0050#16 - (0x0100#16 + 2#16)).toNat % 8 ≠ 0 ∧
    memWord (start [(0x0100#16, 0xDFE9#16), (0x0101#16, 0xBF06#16)]).mem 0x0100#16 =
      BitVec.ofNat 16 (0xC000 + (0x0050#16 - (0x0100#16 + 2#16)).toNat / 8) ∧
    memWord (start [(0x0100#16, 0xDFE9#16), (0x0101#16, 0xBF06#16)]).mem (0x0100#16 + 1#16) =
      BitVec.ofNat 16 (0xBF00 + (0x0050#16 - (0x0100#16 + 2#16)).toNat % 8) := by
  refine ⟨?_, ?_, ?_, ?_, ?_⟩ <;> decide

theorem witness_ExchangeSwapsTheRegisters : regPresent half 1#3 ∧ regPresent half 2#3 ∧ (1#3 ≠ 2#3) ∧ (1#3 = 1#3) :=
  ⟨rfl, rfl, by decide, rfl⟩

end Sys2Proof.Tests.Slice0
end

section
/-! The bitwise, shift and rotate instructions are blind to the flags and the draws before them: each reads registers and
immediates alone and then ends in one shared way (spec/00_scope.md R11, spec/41_logic.md R104). -/

namespace Sys2Proof.Proofs.LogicIndependence
open Sys2Proof Sys2Proof.Machine

/-- The state with other flags and another count of draws: what a logic instruction must not notice. -/
def reflag (s : State) (f : Flags) (n : Nat) : State := (s.setFlags f).setDraws n

/-- The state in which `finishLogic`, the shared end of the logic instructions, leaves `s` after writing `v` to `rd`
(spec/41_logic.md R104). -/
def logicDone (s : State) (rd : Reg) (v : Word) : State :=
  retire (logicFlags (s.setMem (putWord s.mem (regAddr s.w rd) v)) v)

/-- The shared end carries the earlier flags and draws into `C`, `V` and the count of draws only. -/
theorem logicDone_reflag_agrees (s : State) (f : Flags) (n : Nat) (rd : Reg) (v : Word) :
    (logicDone (reflag s f n) rd v).mem = (logicDone s rd v).mem ∧
    (logicDone (reflag s f n) rd v).flags.z = (logicDone s rd v).flags.z ∧
    (logicDone (reflag s f n) rd v).flags.s = (logicDone s rd v).flags.s ∧
    (logicDone (reflag s f n) rd v).pc = (logicDone s rd v).pc ∧
    (logicDone (reflag s f n) rd v).hasExt13 = (logicDone s rd v).hasExt13 ∧
    KeepsWindowAndBus (logicDone s rd v) (logicDone (reflag s f n) rd v) := by
  simp [logicDone, reflag, KeepsWindowAndBus]

/-- The destination and the result of a logic instruction that completes are the same from other flags and draws. The
presence of its registers, its operands and its shift amount are read from parts of the state that `reflag` keeps, so in
each case the premises of the run from `s` are those of the run from `reflag s f n`. -/
theorem exec_isLogic_reflag {i : Instr} {s t : State} (f : Flags) (n : Nat) (hi : i.isLogic = true)
    (h : exec i s = .next t) :
    ∃ rd v, t = logicDone s rd v ∧ exec i (reflag s f n) = .next (logicDone (reflag s f n) rd v) := by
  cases i with
  | and =>
    obtain ⟨ha, hb, hd, ht⟩ := exec_and_eq_next.1 h
    exact ⟨_, _, ht, exec_and_eq_next.2 ⟨ha, hb, hd, rfl⟩⟩
  | or =>
    obtain ⟨ha, hb, hd, ht⟩ := exec_or_eq_next.1 h
    exact ⟨_, _, ht, exec_or_eq_next.2 ⟨ha, hb, hd, rfl⟩⟩
  | xor =>
    obtain ⟨ha, hb, hd, ht⟩ := exec_xor_eq_next.1 h
    exact ⟨_, _, ht, exec_xor_eq_next.2 ⟨ha, hb, hd, rfl⟩⟩
  | andi =>
    obtain ⟨ha, hd, ht⟩ := exec_andi_eq_next.1 h
    exact ⟨_, _, ht, exec_andi_eq_next.2 ⟨ha, hd, rfl⟩⟩
  | ori =>
    obtain ⟨ha, hd, ht⟩ := exec_ori_eq_next.1 h
    exact ⟨_, _, ht, exec_ori_eq_next.2 ⟨ha, hd, rfl⟩⟩
  | xori =>
    obtain ⟨ha, hd, ht⟩ := exec_xori_eq_next.1 h
    exact ⟨_, _, ht, exec_xori_eq_next.2 ⟨ha, hd, rfl⟩⟩
  | sll =>
    obtain ⟨ha, hb, hn, hd, ht⟩ := exec_sll_eq_next.1 h
    exact ⟨_, _, ht, exec_sll_eq_next.2 ⟨ha, hb, hn, hd, rfl⟩⟩
  | rot =>
    obtain ⟨ha, hb, hn, hd, ht⟩ := exec_rot_eq_next.1 h
    exact ⟨_, _, ht, exec_rot_eq_next.2 ⟨ha, hb, hn, hd, rfl⟩⟩
  | srl =>
    obtain ⟨ha, hb, hn, hd, ht⟩ := exec_srl_eq_next.1 h
    exact ⟨_, _, ht, exec_srl_eq_next.2 ⟨ha, hb, hn, hd, rfl⟩⟩
  | sra =>
    obtain ⟨ha, hb, hn, hd, ht⟩ := exec_sra_eq_next.1 h
    exact ⟨_, _, ht, exec_sra_eq_next.2 ⟨ha, hb, hn, hd, rfl⟩⟩
  | slli =>
    obtain ⟨ha, hd, ht⟩ := exec_slli_eq_next.1 h
    exact ⟨_, _, ht, exec_slli_eq_next.2 ⟨ha, hd, rfl⟩⟩
  | roti =>
    obtain ⟨ha, hd, ht⟩ := exec_roti_eq_next.1 h
    exact ⟨_, _, ht, exec_roti_eq_next.2 ⟨ha, hd, rfl⟩⟩
  | srli =>
    obtain ⟨ha, hd, ht⟩ := exec_srli_eq_next.1 h
    exact ⟨_, _, ht, exec_srli_eq_next.2 ⟨ha, hd, rfl⟩⟩
  | srai =>
    obtain ⟨ha, hd, ht⟩ := exec_srai_eq_next.1 h
    exact ⟨_, _, ht, exec_srai_eq_next.2 ⟨ha, hd, rfl⟩⟩
  | _ => exact nomatch hi

/-- Settles O25: both runs write one result to one register, and the shared end differs in `C`, `V` and the draws only. -/
theorem logicResultsDoNotDependOnFlagsOrDraws : Obligations.LogicResultsDoNotDependOnFlagsOrDraws := by
  intro i s t f n hi h
  obtain ⟨rd, v, rfl, hu⟩ := exec_isLogic_reflag f n hi h
  exact ⟨_, hu, logicDone_reflag_agrees s f n rd v⟩

end Sys2Proof.Proofs.LogicIndependence
end

section
/-! Memory after reset, and registers as words of memory (spec/10_state.md R21, R23, R34; spec/20_memory.md R40). -/

namespace Sys2Proof.Proofs.StateWords
open Sys2Proof Sys2Proof.Machine

/-! ## Unwritten memory -/

theorem initByte_lowCell (a : Word) : initByte (lowCell a) = (Config.memInit a).extractLsb' 0 8 := by
  simp [initByte, lowCell]

theorem initByte_highCell (a : Word) : initByte (highCell a) = (Config.memInit a).extractLsb' 8 8 := by
  have hodd : (2 * a.toNat + 1) % 2 = 1 := by omega
  have hhalf : (2 * a.toNat + 1) / 2 = a.toNat := by omega
  simp [initByte, highCell, hodd, hhalf]

theorem memWord_nil (a : Word) : memWord [] a = Config.memInit a := by
  show initByte (highCell a) ++ initByte (lowCell a) = Config.memInit a
  rw [initByte_highCell, initByte_lowCell, high_append_low]

/-- Settles O1: reset lists no byte, so both halves of every word are the free value's. -/
theorem resetHasNoExtensionAndUnwrittenMemory : Obligations.ResetHasNoExtensionAndUnwrittenMemory :=
  ⟨rfl, memWord_nil⟩

/-! ## Registers -/

/-- The number of a register is the rest of its address by 8, its window the quotient. -/
theorem regAddr_inj {w w' : Window} {i j : Reg} (h : regAddr w i = regAddr w' j) : w = w' ∧ i = j := by
  have hi := i.isLt
  have hj := j.isLt
  have haddr : w.toNat * 8 + i.toNat = w'.toNat * 8 + j.toNat := by
    rw [← regAddr_toNat, ← regAddr_toNat, h]
  exact ⟨BitVec.eq_of_toNat_eq (by omega), BitVec.eq_of_toNat_eq (by omega)⟩

/-- Settles O14. -/
theorem windowsAreEqualOrDisjoint : Obligations.WindowsAreEqualOrDisjoint :=
  ⟨regAddr_toNat, fun _ _ _ _ => regAddr_inj⟩

/-- A register read after a word was stored at its address and the instruction ended. -/
theorem regWord_retire_putWord (s : State) (r : Reg) (v : Word) :
    regWord (retire (s.setMem (putWord s.mem (regAddr s.w r) v))) r = v :=
  memWord_putWord_same s.mem (regAddr s.w r) v

/-- Settles O15: the address of the store is that of register `r`, and the load copies the word of register `r`
to `rd`. -/
theorem registersAreMemoryWords : Obligations.RegistersAreMemoryWords := by
  constructor
  · intro rs ra r off5 s t h ha
    obtain ⟨-, -, -, -, rfl⟩ := exec_st_eq_next.1 h
    rw [baseAddr, ha, regWord_retire_putWord]
  · intro rd ra r off5 s t h ha
    obtain ⟨-, -, -, -, rfl⟩ := exec_ld_eq_next.1 h
    rw [baseAddr, ha, regWord_retire_putWord, regWord]

end Sys2Proof.Proofs.StateWords
end

section
/-! What a completed instruction can have changed beside memory: the parts of the state that its class lets it write,
and no other (spec/10_state.md R20, R24, R26, R29, R31). -/

namespace Sys2Proof.Proofs.Endings
open Sys2Proof Sys2Proof.Machine Sys2Proof.Proofs.LogicIndependence

/-- The states in which an instruction can leave `s`, by its class. Nothing is said of memory, of the flags of an addition or
subtraction, or of the addresses and words on the bus. -/
inductive Ending (i : Instr) (s : State) : State → Prop where
  /-- A sum or a difference, or a comparison, which stores nothing. -/
  | arith (hi : i.isArith = true) (m : Memory) (f : Flags) : Ending i s (retire ((s.setMem m).setFlags f))
  /-- A bitwise, shift or rotate instruction. -/
  | logic (hi : i.isLogic = true) (rd : Reg) (v : Word) : Ending i s (logicDone s rd v)
  /-- A load or a store of main memory, or a move. -/
  | data (m : Memory) : Ending i s (retire (s.setMem m))
  /-- A load from the bus. -/
  | busRead (hi : i.readsBus = true) (a : Word) (m : Memory) : Ending i s (retire ((extRead s a).setMem m))
  /-- A store to the bus. -/
  | busWrite (hi : i.writesBus = true) (a v : Word) : Ending i s (retire (extWrite s a v))
  /-- ADJW.1, which stores nothing, or ADJW.2. -/
  | window (hi : i.movesWindow = true) (w : Window) (m : Memory) : Ending i s (retire ((s.setW w).setMem m))
  /-- A jump, taken or not, or JAL, which alone stores. -/
  | jump (hi : i.isJump = true) (m : Memory) (target : Word) : Ending i s (jumpTo (s.setMem m) target)
  /-- EXTI. -/
  | exti (hi : i.isExti = true) (e : BitVec 13) :
    Ending i s (((s.setExt13 e).setPc (s.pc + 1#16)).setHasExt13 true)

/-- A conditional jump goes to its target or to the next word. -/
theorem jumpIf_jumpsTo {cond : BitVec 4} {off8 : BitVec 8} {s t : State} (h : jumpIf cond off8 s = .next t) :
    ∃ target, t = jumpTo s target := by
  obtain ⟨-, rfl⟩ := jumpIf_eq.1 h
  split
  · exact ⟨_, rfl⟩
  · exact ⟨s.pc + 1#16, rfl⟩

/-- Everything a completed instruction can do. -/
theorem exec_ending {i : Instr} {s t : State} (h : exec i s = .next t) : Ending i s t := by
  cases i with
  | add | adc | sub | sbb =>
    simp only [exec_add_eq_next, exec_adc_eq_next, exec_sub_eq_next, exec_sbb_eq_next] at h
    obtain ⟨-, -, -, rfl⟩ := h
    exact .arith rfl _ _
  | addi | adci | subi | sbbi =>
    simp only [exec_addi_eq_next, exec_adci_eq_next, exec_subi_eq_next, exec_sbbi_eq_next] at h
    obtain ⟨-, -, rfl⟩ := h
    exact .arith rfl _ _
  | cmp =>
    obtain ⟨-, -, rfl⟩ := exec_cmp_eq_next.1 h
    exact .arith rfl s.mem _
  | cmpi =>
    obtain ⟨-, rfl⟩ := exec_cmpi_eq_next.1 h
    exact .arith rfl s.mem _
  | and | or | xor | andi | ori | xori | sll | rot | srl | sra | slli | roti | srli | srai =>
    obtain ⟨rd, v, rfl, -⟩ := exec_isLogic_reflag s.flags s.draws rfl h
    exact .logic rfl rd v
  | ld | ldi | st | sti =>
    simp only [exec_ld_eq_next, exec_ldi_eq_next, exec_st_eq_next, exec_sti_eq_next] at h
    obtain ⟨-, -, -, -, rfl⟩ := h
    exact .data _
  | mova | movi =>
    simp only [exec_mova_eq_next, exec_movi_eq_next] at h
    obtain ⟨-, -, rfl⟩ := h
    exact .data _
  | ldx =>
    obtain ⟨-, -, -, rfl⟩ := exec_ldx_eq_next.1 h
    exact .busRead rfl _ _
  | ldxz =>
    obtain ⟨-, -, rfl⟩ := exec_ldxz_eq_next.1 h
    exact .busRead rfl _ _
  | stx =>
    obtain ⟨-, -, -, rfl⟩ := exec_stx_eq_next.1 h
    exact .busWrite rfl _ _
  | stxz =>
    obtain ⟨-, -, rfl⟩ := exec_stxz_eq_next.1 h
    exact .busWrite rfl _ _
  | adjw1 =>
    obtain rfl := exec_adjw1_eq_next.1 h
    exact .window rfl _ s.mem
  | adjw2 =>
    obtain ⟨-, rfl⟩ := exec_adjw2_eq_next.1 h
    exact .window rfl _ _
  | jal =>
    obtain ⟨-, -, rfl⟩ := exec_jal_eq_next.1 h
    exact .jump rfl _ _
  | jr =>
    obtain ⟨-, -, rfl⟩ := exec_jr_eq_next.1 h
    exact .jump rfl s.mem _
  | jnz | jne | jns | jnc | jult | jno | jugt | jsge | jsgt | jn | jz | je | js | jc | juge | jo | jule | jslt | jsle
  | j =>
    obtain ⟨target, rfl⟩ := jumpIf_jumpsTo h
    exact .jump rfl s.mem target
  | exti =>
    obtain rfl := exec_exti_eq_next.1 h
    exact .exti rfl _

/-! ## The parts of the state, one by one -/

/-- Settles O19: of all endings the window's alone writes `W`. -/
theorem onlyAdjwMovesTheWindow : Obligations.OnlyAdjwMovesTheWindow := by
  intro i s t hi h
  cases exec_ending h with
  | window hw => exact absurd hw (by simp [hi])
  | _ => rfl

theorem isExti_eq_true_iff {i : Instr} : i.isExti = true ↔ ∃ imm13, i = .exti imm13 := by
  cases i <;> simp [Instr.isExti]

/-- An instruction other than EXTI uses up the pending extension and leaves its value. -/
theorem exec_clears_extension {i : Instr} {s t : State} (hi : i.isExti = false) (h : exec i s = .next t) :
    t.hasExt13 = false ∧ t.ext13 = s.ext13 := by
  cases exec_ending h with
  | exti hx => exact absurd hx (by simp [hi])
  | _ => exact ⟨rfl, rfl⟩

/-- Settles O20. -/
theorem onlyExtiLeavesAnExtension : Obligations.OnlyExtiLeavesAnExtension := by
  intro i s t h
  cases hi : i.isExti with
  | false =>
    obtain ⟨hhas, hext⟩ := exec_clears_extension hi h
    exact ⟨hhas, fun _ => hext⟩
  | true =>
    obtain ⟨imm13, rfl⟩ := isExti_eq_true_iff.1 hi
    obtain rfl := exec_exti_eq_next.1 h
    exact ⟨rfl, nofun⟩

/-- Settles O21: of all endings the arithmetic and the logic ones alone write flags or draw. -/
theorem otherInstructionsWriteNoFlag : Obligations.OtherInstructionsWriteNoFlag := by
  intro i s t ha hl h
  cases exec_ending h with
  | arith hi => exact absurd hi (by simp [ha])
  | logic hi => exact absurd hi (by simp [hl])
  | _ => exact ⟨rfl, rfl⟩

/-- No ending touches the configuration. -/
theorem exec_keeps_absent {i : Instr} {s t : State} (h : exec i s = .next t) : t.absent = s.absent := by
  cases exec_ending h <;> rfl

/-- Settles O23. -/
theorem noStepChangesWhichWordsArePresent : Obligations.NoStepChangesWhichWordsArePresent := by
  intro s t a h
  obtain ⟨-, i, -, hexec⟩ := step_eq_next.1 h
  exact memPresent_congr (exec_keeps_absent hexec) a

/-- Settles O24: every ending but a jump's retires, and EXTI's advances `PC` itself. -/
theorem instructionsThatAreNoJumpAdvancePc : Obligations.InstructionsThatAreNoJumpAdvancePc := by
  intro i s t hi h
  cases exec_ending h with
  | jump hj => exact absurd hj (by simp [hi])
  | _ => rfl

end Sys2Proof.Proofs.Endings
end

section
/-! The canonical form of memory: reset has it, every step keeps it, and it makes equal memories equal data. Beside it the
frame of an instruction, which rests on the same fact: one word is stored, or none (spec/20_memory.md R41, R47; log 2). -/

namespace Sys2Proof.Proofs.MemoryForm
open Sys2Proof Sys2Proof.Machine Sys2Proof.Proofs.Endings

/-- Settles O2: reset lists no cell. -/
theorem resetMemoryIsCanonical : Obligations.ResetMemoryIsCanonical := ⟨.nil, nofun⟩

/-! ## Memories as data -/

/-- In rising order a cell is listed exactly when it is the first one, and so the one read, at its address. -/
theorem stored_eq_some_iff {m : Memory} (h : m.Pairwise fun x y => x.1 < y.1) {k : Nat} {b : Byte} :
    Memory.stored m k = some b ↔ (k, b) ∈ m := by
  induction m with
  | nil => simp [Memory.stored]
  | cons x m ih =>
    obtain ⟨i, c⟩ := x
    obtain ⟨hrise, hm⟩ := List.pairwise_cons.1 h
    by_cases hk : k = i
    · subst hk
      have hnot : (k, b) ∉ m := fun hb => Nat.lt_irrefl k (hrise _ hb)
      simp [Memory.stored, hnot, eq_comm]
    · simp [Memory.stored, hk, ih hm]

/-- Settles O13: the two list the same cells, and an order lists them in one way only. -/
theorem canonicalMemoriesAreEqualData : Obligations.CanonicalMemoriesAreEqualData := by
  rintro m n ⟨hm, -⟩ ⟨hn, -⟩ heq
  have : Std.Asymm fun x y : Host.Cell => x.1 < y.1 := ⟨fun _ _ => Nat.lt_asymm⟩
  refine hm.eq_of_mem_iff hn fun ⟨k, b⟩ => ?_
  rw [← stored_eq_some_iff hm, ← stored_eq_some_iff hn, heq]

/-! ## What an instruction stores -/

/-- The memories that storing one word at the address, or nothing where there is none, can make of `m`. -/
inductive Stores (m : Memory) : Option Word → Memory → Prop where
  | nothing : Stores m none m
  | word (a v : Word) : Stores m (some a) (putWord m a v)

/-- A completed instruction stores one word at `storedAt`, or nothing. -/
theorem exec_stores {i : Instr} {s t : State} (h : exec i s = .next t) : Stores s.mem (storedAt i s) t.mem := by
  cases i with
  | add | adc | sub | sbb | and | or | xor =>
    simp only [exec_add_eq_next, exec_adc_eq_next, exec_sub_eq_next, exec_sbb_eq_next, exec_and_eq_next,
      exec_or_eq_next, exec_xor_eq_next] at h
    obtain ⟨-, -, -, rfl⟩ := h
    exact .word _ _
  | addi | adci | subi | sbbi | andi | ori | xori | slli | roti | srli | srai =>
    simp only [exec_addi_eq_next, exec_adci_eq_next, exec_subi_eq_next, exec_sbbi_eq_next, exec_andi_eq_next,
      exec_ori_eq_next, exec_xori_eq_next, exec_slli_eq_next, exec_roti_eq_next, exec_srli_eq_next,
      exec_srai_eq_next] at h
    obtain ⟨-, -, rfl⟩ := h
    exact .word _ _
  | sll | rot | srl | sra | ld | ldi | st | sti =>
    simp only [exec_sll_eq_next, exec_rot_eq_next, exec_srl_eq_next, exec_sra_eq_next, exec_ld_eq_next,
      exec_ldi_eq_next, exec_st_eq_next, exec_sti_eq_next] at h
    obtain ⟨-, -, -, -, rfl⟩ := h
    exact .word _ _
  | ldxz | mova | movi | jal =>
    simp only [exec_ldxz_eq_next, exec_mova_eq_next, exec_movi_eq_next, exec_jal_eq_next] at h
    obtain ⟨-, -, rfl⟩ := h
    exact .word _ _
  | ldx =>
    obtain ⟨-, -, -, rfl⟩ := exec_ldx_eq_next.1 h
    exact .word _ _
  | adjw2 =>
    obtain ⟨-, rfl⟩ := exec_adjw2_eq_next.1 h
    exact .word _ _
  | cmp =>
    obtain ⟨-, -, rfl⟩ := exec_cmp_eq_next.1 h
    exact .nothing
  | cmpi =>
    obtain ⟨-, rfl⟩ := exec_cmpi_eq_next.1 h
    exact .nothing
  | adjw1 =>
    obtain rfl := exec_adjw1_eq_next.1 h
    exact .nothing
  | stx =>
    obtain ⟨-, -, -, rfl⟩ := exec_stx_eq_next.1 h
    exact .nothing
  | stxz =>
    obtain ⟨-, -, rfl⟩ := exec_stxz_eq_next.1 h
    exact .nothing
  | jr =>
    obtain ⟨-, -, rfl⟩ := exec_jr_eq_next.1 h
    exact .nothing
  | jnz | jne | jns | jnc | jult | jno | jugt | jsge | jsgt | jn | jz | je | js | jc | juge | jo | jule | jslt | jsle
  | j =>
    obtain ⟨_, rfl⟩ := jumpIf_jumpsTo h
    exact .nothing
  | exti =>
    obtain rfl := exec_exti_eq_next.1 h
    exact .nothing

theorem Stores.wf {m m' : Memory} {a : Option Word} (h : Stores m a m') (hm : Memory.wf m) : Memory.wf m' := by
  cases h with
  | nothing => exact hm
  | word a v => exact putWord_wf a v hm

theorem Stores.readByte_eq {m m' : Memory} {a : Option Word} (h : Stores m a m') {k : Nat}
    (hk : ∀ b, a = some b → k ≠ lowCell b ∧ k ≠ highCell b) : readByte m' k = readByte m k := by
  cases h with
  | nothing => rfl
  | word b v =>
    obtain ⟨hlow, hhigh⟩ := hk b rfl
    exact readByte_putWord_other m b v hlow hhigh

/-- Settles O12. -/
theorem stepKeepsMemoryCanonical : Obligations.StepKeepsMemoryCanonical := by
  intro s t hs h
  obtain ⟨-, i, -, hexec⟩ := step_eq_next.1 h
  exact (exec_stores hexec).wf hs

/-- Settles O18. -/
theorem execStoresOnlyAtItsStoredAddress : Obligations.ExecStoresOnlyAtItsStoredAddress :=
  fun _ _ _ h _ hk => (exec_stores h).readByte_eq hk

end Sys2Proof.Proofs.MemoryForm
end

section
/-! When an instruction completes: it goes through the words it touches one after the other and is refused at the first
that is absent (spec/20_memory.md R49, spec/60_exceptions.md R204). -/

namespace Sys2Proof.Proofs.Completion
open Sys2Proof Sys2Proof.Machine

/-- The outcomes of an access to each of the words in turn: a refusal naming the first absent one, or a next state. -/
inductive Visits (s : State) : List Word → Result → Prop where
  | completes (t : State) : Visits s [] (.next t)
  | stops {a : Word} (as : List Word) (ha : memPresent s a = false) :
    Visits s (a :: as) (.refused (.absentMemory a))
  | goesOn {a : Word} {as : List Word} {r : Result} (ha : memPresent s a = true) (hr : Visits s as r) :
    Visits s (a :: as) r

theorem Visits.completes_iff {s : State} {as : List Word} {r : Result} (h : Visits s as r) :
    (∃ t, r = .next t) ↔ ∀ a ∈ as, memPresent s a = true := by
  induction h with
  | completes t => simp
  | stops as ha => simp [ha]
  | goesOn ha _ ih => simpa [ha] using ih

theorem Visits.refused_of_absent {s : State} {as : List Word} {r : Result} (h : Visits s as r)
    (habs : ∃ a ∈ as, memPresent s a = false) :
    ∃ a ∈ as, memPresent s a = false ∧ r = .refused (.absentMemory a) := by
  induction h with
  | completes t => simp at habs
  | stops as ha => exact ⟨_, List.mem_cons_self, ha, rfl⟩
  | goesOn ha _ ih =>
    obtain ⟨a, hmem, hr⟩ := ih (by simpa [ha] using habs)
    exact ⟨a, List.mem_cons_of_mem _ hmem, hr⟩

/-! ## The accesses of the shared operations -/

theorem visits_memRead {s : State} {a : Word} {as : List Word} {k : Word → Result}
    (h : Visits s as (k (memWord s.mem a))) : Visits s (a :: as) (attempt (memRead s a) k) := by
  cases ha : memPresent s a with
  | false =>
    simp only [memRead, ha]
    exact .stops as ha
  | true =>
    rw [memRead_of_present ha]
    exact .goesOn ha h

theorem visits_readReg {s : State} {i : Reg} {as : List Word} {k : Word → Result}
    (h : Visits s as (k (regWord s i))) : Visits s (regAddr s.w i :: as) (attempt (readReg s i) k) :=
  visits_memRead h

/-- The write that ends an instruction may follow other changes of the state (ADJW.2's window, LDX's bus read), all of which
keep `absent`. -/
theorem visits_memWrite {s u : State} (hu : u.absent = s.absent) (a v : Word) (f : State → State) :
    Visits s [a] (attempt (memWrite u a v) fun x => .next (f x)) := by
  have hpres := memPresent_congr hu a
  cases ha : memPresent s a with
  | false =>
    simp only [memWrite, hpres, ha]
    exact .stops [] ha
  | true =>
    rw [memWrite_of_present v (hpres.trans ha)]
    exact .goesOn ha (.completes _)

theorem visits_writeReg {s u : State} (hu : u.absent = s.absent) (rd : Reg) (v : Word) (f : State → State) :
    Visits s [regAddr u.w rd] (attempt (writeReg u rd v) fun x => .next (f x)) :=
  visits_memWrite hu (regAddr u.w rd) v f

theorem visits_withOperands {s : State} {ra rb : Reg} {as : List Word} {k : Word → Word → Result}
    (h : Visits s as (k (regWord s ra) (regWord s rb))) :
    Visits s (regAddr s.w ra :: regAddr s.w rb :: as) (withOperands s ra rb k) :=
  visits_readReg (visits_readReg h)

theorem visits_finishArith (s : State) (rd : Reg) (r : Word × Flags) :
    Visits s [regAddr s.w rd] (finishArith s rd r) :=
  visits_writeReg rfl rd r.1 fun x => retire (x.setFlags r.2)

theorem visits_finishLogic (s : State) (rd : Reg) (v : Word) : Visits s [regAddr s.w rd] (finishLogic s rd v) :=
  visits_writeReg rfl rd v fun x => retire (logicFlags x v)

theorem visits_finishLoad {s u : State} (hu : u.absent = s.absent) (rd : Reg) (v : Word) :
    Visits s [regAddr u.w rd] (finishLoad u rd v) :=
  visits_writeReg hu rd v retire

theorem visits_finishStore (s : State) (a v : Word) : Visits s [a] (finishStore s a v) :=
  visits_memWrite rfl a v retire

theorem visits_shiftByReg {s : State} {rb : Reg} (hn : (regWord s rb).toNat ≤ 15) (f : Word → Nat → Word) (rd ra : Reg) :
    Visits s [regAddr s.w ra, regAddr s.w rb, regAddr s.w rd] (shiftByReg f rd ra rb s) := by
  refine visits_withOperands ?_
  rw [shiftAmountReg_eq_ok.2 ⟨hn, rfl⟩]
  exact visits_finishLogic s rd _

/-! ## Defined forms -/

theorem offM5_of_longOk5 {s : State} {off5 : BitVec 5} (h : longOk5 s off5) :
    offM5 s off5 = .ok (effOff5 s off5) := by
  cases hx : s.hasExt13 with
  | false => simp [offM5_eq_ok, effOff5, hx]
  | true => simp [offM5_eq_ok, effOff5, hx, h hx]

theorem offI8_of_longOk8 {s : State} {off8 : BitVec 8} (h : longOk8 s off8) :
    offI8 s off8 = .ok (effOff8 s off8) := by
  cases hx : s.hasExt13 with
  | false => simp [offI8_eq_ok, effOff8, hx]
  | true => simp [offI8_eq_ok, effOff8, hx, h hx]

theorem visits_offM5 {s : State} {off5 : BitVec 5} {as : List Word} {k : Word → Result} (hf : longOk5 s off5)
    (h : Visits s as (k (effOff5 s off5))) : Visits s as (attempt (offM5 s off5) k) := by
  rwa [offM5_of_longOk5 hf]

theorem visits_offI8 {s : State} {off8 : BitVec 8} {as : List Word} {k : Word → Result} (hf : longOk8 s off8)
    (h : Visits s as (k (effOff8 s off8))) : Visits s as (attempt (offI8 s off8) k) := by
  rwa [offI8_of_longOk8 hf]

theorem visits_jumpIf {s : State} {off8 : BitVec 8} (hf : longOk8 s off8) (cond : BitVec 4) :
    Visits s [] (jumpIf cond off8 s) :=
  visits_offI8 hf (.completes _)

/-- An instruction that completes has a form that the spec defines. -/
theorem formDefined_of_exec {i : Instr} {s t : State} (h : exec i s = .next t) : formDefined i s := by
  cases i with
  | ld | ldi | st | sti | ldx | stx =>
    obtain ⟨hform, -⟩ := attempt_offM5_eq_next.1 h
    exact hform
  | ldxz | stxz | mova | movi | jal =>
    obtain ⟨hform, -⟩ := attempt_offI8_eq_next.1 h
    exact hform
  | jnz | jne | jns | jnc | jult | jno | jugt | jsge | jsgt | jn | jz | je | js | jc | juge | jo | jule | jslt | jsle
  | j =>
    obtain ⟨hform, -⟩ := jumpIf_eq.1 h
    exact hform
  | sll | rot | srl | sra =>
    obtain ⟨-, -, hform, -⟩ := shiftByReg_eq_next.1 h
    exact hform
  | jr =>
    obtain ⟨hform, -⟩ := exec_jr_eq_next.1 h
    exact hform
  | _ => trivial

/-- An instruction with a defined form goes through the words of `accessedAt`, in that order. -/
theorem exec_visits {i : Instr} {s : State} (hf : formDefined i s) : Visits s (accessedAt i s) (exec i s) := by
  cases i with
  | add | adc | sub | sbb => exact visits_withOperands (visits_finishArith s _ _)
  | and | or | xor => exact visits_withOperands (visits_finishLogic s _ _)
  | addi | adci | subi | sbbi => exact visits_readReg (visits_finishArith s _ _)
  | andi | ori | xori | slli | roti | srli | srai => exact visits_readReg (visits_finishLogic s _ _)
  | sll | rot | srl | sra => exact visits_shiftByReg hf _ _ _
  | cmp => exact visits_withOperands (.completes _)
  | cmpi => exact visits_readReg (.completes _)
  | adjw1 => exact .completes _
  | adjw2 => exact visits_writeReg (State.setW_absent s _) _ _ retire
  | ld | ldi => exact visits_offM5 hf (visits_readReg (visits_memRead (visits_finishLoad rfl _ _)))
  | st | sti => exact visits_offM5 hf (visits_readReg (visits_readReg (visits_finishStore s _ _)))
  | ldx => exact visits_offM5 hf (visits_readReg (visits_finishLoad (extRead_absent s _) _ _))
  | ldxz => exact visits_offI8 hf (visits_finishLoad (extRead_absent s _) _ _)
  | stx => exact visits_offM5 hf (visits_readReg (visits_readReg (.completes _)))
  | stxz => exact visits_offI8 hf (visits_readReg (.completes _))
  | mova | movi => exact visits_offI8 hf (visits_finishLoad rfl _ _)
  | jal => exact visits_offI8 hf (visits_writeReg rfl _ _ fun x => jumpTo x _)
  | jr ra =>
    have hx : s.hasExt13 = false := hf
    simp only [exec, execJr, hx]
    exact visits_readReg (.completes _)
  | jnz | jne | jns | jnc | jult | jno | jugt | jsge | jsgt | jn | jz | je | js | jc | juge | jo | jule | jslt | jsle
  | j => exact visits_jumpIf hf _
  | exti => exact .completes _

theorem step_refused_of_absent {s : State} (h : memPresent s s.pc = false) : step s = .refused (.absentMemory s.pc) := by
  simp [step, fetchThen, memRead, h]

/-- Settles O10: an instruction with a defined form goes through its words in turn, and one without never completes. -/
theorem instructionsCompleteExactlyWhenDefined : Obligations.InstructionsCompleteExactlyWhenDefined := by
  refine ⟨fun _ => step_refused_of_absent, fun i s => ⟨?_, ?_⟩, fun i s hf habs => (exec_visits hf).refused_of_absent habs⟩
  · rintro ⟨t, h⟩
    have hf := formDefined_of_exec h
    exact ⟨hf, (exec_visits hf).completes_iff.1 ⟨t, h⟩⟩
  · rintro ⟨hf, hpres⟩
    exact (exec_visits hf).completes_iff.2 hpres

end Sys2Proof.Proofs.Completion
end

section
/-! One access after another: what is stored is what is fetched or loaded next, and bus accesses are counted one by one
(spec/20_memory.md R42, R44, R51, R54). -/

namespace Sys2Proof.Proofs.AccessOrder
open Sys2Proof Sys2Proof.Machine Sys2Proof.Proofs.StateWords Sys2Proof.Proofs.Endings

/-! ## Fetch -/

/-- Settles O8. -/
theorem stepRunsTheDecodedInstruction : Obligations.StepRunsTheDecodedInstruction := by
  intro s i hpres hdec
  rw [step, fetchThen, memRead_of_present hpres, attempt_ok, decodeFetched_eq_ok.2 hdec, attempt_ok]

theorem decodeTableWord_eq_some {nbits n : Nat} {i : Instr} :
    decodeTableWord nbits n = some i ↔ decode (tableWord nbits n) = .ok i := by
  unfold decodeTableWord
  split <;> simp_all

theorem memWord_placeAtPc (s : State) (w a : Word) :
    memWord (placeAtPc s w).mem a = if a = s.pc then w else memWord s.mem a :=
  memWord_putWord s.mem s.pc w a

/-- Settles O9. -/
theorem placedWordIsExecutedNext : Obligations.PlacedWordIsExecutedNext := by
  intro s n i h
  have hword : memWord (s.withFetchWord 16 n).mem s.pc = tableWord 16 n := by
    rw [State.withFetchWord, memWord_placeAtPc, if_pos rfl]
  have hpres : memPresent (s.withFetchWord 16 n) s.pc = true := by
    simp [State.withFetchWord, memPresent_placeAtPc]
  refine ⟨stepRunsTheDecodedInstruction _ i hpres ?_, fun a ha => ⟨?_, ?_⟩⟩
  · exact (congrArg decode hword).trans (decodeTableWord_eq_some.1 h)
  · rw [State.withFetchWord, memWord_placeAtPc, if_neg ha]
  · simp [State.withFetchWord, memPresent_placeAtPc, ha]

/-- Settles O17: the store's own address is the word after the STI, so that word is present and holds `rs`. -/
theorem storedCodeIsFetchedNext : Obligations.StoredCodeIsFetchedNext := by
  intro rs ra off5 s t i h haddr hdec
  obtain ⟨-, -, -, hpres, rfl⟩ := exec_sti_eq_next.1 h
  have hnext : indexedAddr s (regWord s ra) (effOff5 s off5) = s.pc + 1#16 := by
    rw [indexedAddr, BitVec.add_assoc, haddr]
  rw [hnext] at hpres ⊢
  refine stepRunsTheDecodedInstruction _ i hpres ?_
  simpa using hdec

/-! ## Load after store -/

/-- Settles O16: the store leaves no extension pending, so the load's offset is the short form's. -/
theorem loadAfterStoreSeesTheStoredWord : Obligations.LoadAfterStoreSeesTheStoredWord := by
  intro rs ra rd rb off5 off5' s t u hst hld haddr
  obtain ⟨-, -, -, -, rfl⟩ := exec_ld_eq_next.1 hld
  have hshort : effOff5 t off5' = off5'.signExtend 16 := by
    simp [effOff5, (exec_clears_extension rfl hst).1]
  rw [regWord_retire_putWord, baseAddr, hshort, haddr]
  obtain ⟨-, -, -, -, rfl⟩ := exec_st_eq_next.1 hst
  exact memWord_putWord_same s.mem _ _

/-! ## The bus -/

/-- An instruction of the class completes with one bus read. -/
theorem exec_readsBus {i : Instr} {s t : State} (hi : i.readsBus = true) (h : exec i s = .next t) :
    (∃ a v, t.busLog = s.busLog ++ [.read a v]) ∧ t.busIn = s.busIn.tail := by
  cases i with
  | ldx =>
    obtain ⟨-, -, -, rfl⟩ := exec_ldx_eq_next.1 h
    exact ⟨⟨_, _, rfl⟩, rfl⟩
  | ldxz =>
    obtain ⟨-, -, rfl⟩ := exec_ldxz_eq_next.1 h
    exact ⟨⟨_, _, rfl⟩, rfl⟩
  | _ => exact nomatch hi

/-- An instruction of the class completes with one bus write. -/
theorem exec_writesBus {i : Instr} {s t : State} (hi : i.writesBus = true) (h : exec i s = .next t) :
    (∃ a v, t.busLog = s.busLog ++ [.write a v]) ∧ t.busIn = s.busIn := by
  cases i with
  | stx =>
    obtain ⟨-, -, -, rfl⟩ := exec_stx_eq_next.1 h
    exact ⟨⟨_, _, rfl⟩, rfl⟩
  | stxz =>
    obtain ⟨-, -, rfl⟩ := exec_stxz_eq_next.1 h
    exact ⟨⟨_, _, rfl⟩, rfl⟩
  | _ => exact nomatch hi

/-- Of all endings the two of the bus alone touch it. -/
theorem exec_keeps_bus {i : Instr} {s t : State} (hr : i.readsBus = false) (hw : i.writesBus = false)
    (h : exec i s = .next t) : t.busLog = s.busLog ∧ t.busIn = s.busIn := by
  cases exec_ending h with
  | busRead hi => exact absurd hi (by simp [hr])
  | busWrite hi => exact absurd hi (by simp [hw])
  | _ => exact ⟨rfl, rfl⟩

/-- Settles O22. -/
theorem busAccessesAreExact : Obligations.BusAccessesAreExact :=
  fun _ _ _ h => ⟨fun hr => exec_readsBus hr h, fun hw => exec_writesBus hw h, fun hr hw => exec_keeps_bus hr hw h⟩

end Sys2Proof.Proofs.AccessOrder
end

section
/-! The words of the five formats and their fields, in numbers and field by field (spec/30_encoding.md R61, R62): a word of
a format is determined by its fields, which is all that decoding after encoding, and encoding after decoding, needs. -/

namespace Sys2Proof.Proofs.WordFields
open Sys2Proof Sys2Proof.Machine

/-! ## Fields in numbers -/

theorem fieldOp5_toNat (w : Word) : (fieldOp5 w).toNat = w.toNat / 2048 := by
  have hw := w.isLt
  simp only [fieldOp5, BitVec.extractLsb'_toNat, Nat.shiftRight_eq_div_pow]
  omega

theorem fieldRd_toNat (w : Word) : (fieldRd w).toNat = w.toNat / 256 % 8 := by
  simp [fieldRd, BitVec.extractLsb'_toNat, Nat.shiftRight_eq_div_pow]

theorem fieldRa_toNat (w : Word) : (fieldRa w).toNat = w.toNat / 32 % 8 := by
  simp [fieldRa, BitVec.extractLsb'_toNat, Nat.shiftRight_eq_div_pow]

theorem fieldType_toNat (w : Word) : (fieldType w).toNat = w.toNat / 8 % 4 := by
  simp [fieldType, BitVec.extractLsb'_toNat, Nat.shiftRight_eq_div_pow]

theorem fieldLow_toNat (w : Word) : (fieldLow w).toNat = w.toNat % 8 := by
  simp [fieldLow, BitVec.extractLsb'_toNat]

theorem fieldOff5_toNat (w : Word) : (fieldOff5 w).toNat = w.toNat % 32 := by
  simp [fieldOff5, BitVec.extractLsb'_toNat]

theorem fieldOff8_toNat (w : Word) : (fieldOff8 w).toNat = w.toNat % 256 := by
  simp [fieldOff8, BitVec.extractLsb'_toNat]

theorem fieldCond_toNat (w : Word) : (fieldCond w).toNat = w.toNat / 256 % 16 := by
  simp [fieldCond, BitVec.extractLsb'_toNat, Nat.shiftRight_eq_div_pow]

theorem fieldImm13_toNat (w : Word) : (fieldImm13 w).toNat = w.toNat % 8192 := by
  simp [fieldImm13, BitVec.extractLsb'_toNat]

/-! ## Words in numbers -/

theorem toNat_append_eq_add {m n : Nat} (x : BitVec m) (y : BitVec n) :
    (x ++ y).toNat = x.toNat * 2 ^ n + y.toNat := by
  rw [BitVec.toNat_append, ← Nat.shiftLeft_add_eq_or_of_lt y.isLt, Nat.shiftLeft_eq]

theorem wordR3_toNat (op5 : BitVec 5) (rd ra : BitVec 3) (type : BitVec 2) (low : BitVec 3) :
    (wordR3 op5 rd ra type low).toNat =
      op5.toNat * 2048 + rd.toNat * 256 + ra.toNat * 32 + type.toNat * 8 + low.toNat := by
  simp only [wordR3, toNat_append_eq_add]
  omega

theorem wordM5_toNat (op5 : BitVec 5) (rd ra : BitVec 3) (off5 : BitVec 5) :
    (wordM5 op5 rd ra off5).toNat = op5.toNat * 2048 + rd.toNat * 256 + ra.toNat * 32 + off5.toNat := by
  simp only [wordM5, toNat_append_eq_add]
  omega

theorem wordI8_toNat (op5 : BitVec 5) (rd : BitVec 3) (off8 : BitVec 8) :
    (wordI8 op5 rd off8).toNat = op5.toNat * 2048 + rd.toNat * 256 + off8.toNat := by
  simp only [wordI8, toNat_append_eq_add]
  omega

theorem wordJ8_toNat (cond : BitVec 4) (off8 : BitVec 8) :
    (wordJ8 cond off8).toNat = 0xB000 + cond.toNat * 256 + off8.toNat := by
  simp only [wordJ8, toNat_append_eq_add, BitVec.toNat_ofNat]
  omega

theorem wordX13_toNat (imm13 : BitVec 13) : (wordX13 imm13).toNat = 0xC000 + imm13.toNat := by
  simp only [wordX13, toNat_append_eq_add, BitVec.toNat_ofNat]
  omega

/-! ## A word of a format is its fields -/

theorem wordR3_eq_iff {w : Word} {op5 : BitVec 5} {rd ra : BitVec 3} {type : BitVec 2} {low : BitVec 3} :
    wordR3 op5 rd ra type low = w ↔
      fieldOp5 w = op5 ∧ fieldRd w = rd ∧ fieldRa w = ra ∧ fieldType w = type ∧ fieldLow w = low := by
  simp only [← BitVec.toNat_inj, wordR3_toNat, fieldOp5_toNat, fieldRd_toNat, fieldRa_toNat, fieldType_toNat,
    fieldLow_toNat]
  omega

theorem wordM5_eq_iff {w : Word} {op5 : BitVec 5} {rd ra : BitVec 3} {off5 : BitVec 5} :
    wordM5 op5 rd ra off5 = w ↔ fieldOp5 w = op5 ∧ fieldRd w = rd ∧ fieldRa w = ra ∧ fieldOff5 w = off5 := by
  simp only [← BitVec.toNat_inj, wordM5_toNat, fieldOp5_toNat, fieldRd_toNat, fieldRa_toNat, fieldOff5_toNat]
  omega

theorem wordI8_eq_iff {w : Word} {op5 : BitVec 5} {rd : BitVec 3} {off8 : BitVec 8} :
    wordI8 op5 rd off8 = w ↔ fieldOp5 w = op5 ∧ fieldRd w = rd ∧ fieldOff8 w = off8 := by
  simp only [← BitVec.toNat_inj, wordI8_toNat, fieldOp5_toNat, fieldRd_toNat, fieldOff8_toNat]
  omega

/-- The top bit of `cond` is the low bit of `op5`. -/
theorem wordJ8_eq_iff {w : Word} {cond : BitVec 4} {off8 : BitVec 8} :
    wordJ8 cond off8 = w ↔
      fieldOp5 w = (if cond.msb then 0b10111#5 else 0b10110#5) ∧ fieldCond w = cond ∧ fieldOff8 w = off8 := by
  by_cases hc : 8 ≤ cond.toNat <;>
    simp only [BitVec.msb_eq_decide, hc, ← BitVec.toNat_inj, wordJ8_toNat, fieldOp5_toNat, fieldCond_toNat,
      fieldOff8_toNat] <;>
    simp <;> omega

theorem wordX13_eq_iff {w : Word} {imm13 : BitVec 13} :
    wordX13 imm13 = w ↔
      fieldOp5 w ∈ [0b11000#5, 0b11001#5, 0b11010#5, 0b11011#5] ∧ fieldImm13 w = imm13 := by
  simp only [List.mem_cons, List.not_mem_nil, or_false, ← BitVec.toNat_inj, wordX13_toNat, fieldOp5_toNat,
    fieldImm13_toNat, BitVec.toNat_ofNat]
  omega

/-! ## The fields of a word of a format -/

@[simp] theorem fields_wordR3 (op5 : BitVec 5) (rd ra : BitVec 3) (type : BitVec 2) (low : BitVec 3) :
    fieldOp5 (wordR3 op5 rd ra type low) = op5 ∧ fieldRd (wordR3 op5 rd ra type low) = rd ∧
      fieldRa (wordR3 op5 rd ra type low) = ra ∧ fieldType (wordR3 op5 rd ra type low) = type ∧
      fieldLow (wordR3 op5 rd ra type low) = low :=
  wordR3_eq_iff.1 rfl

@[simp] theorem fields_wordM5 (op5 : BitVec 5) (rd ra : BitVec 3) (off5 : BitVec 5) :
    fieldOp5 (wordM5 op5 rd ra off5) = op5 ∧ fieldRd (wordM5 op5 rd ra off5) = rd ∧
      fieldRa (wordM5 op5 rd ra off5) = ra ∧ fieldOff5 (wordM5 op5 rd ra off5) = off5 :=
  wordM5_eq_iff.1 rfl

@[simp] theorem fields_wordI8 (op5 : BitVec 5) (rd : BitVec 3) (off8 : BitVec 8) :
    fieldOp5 (wordI8 op5 rd off8) = op5 ∧ fieldRd (wordI8 op5 rd off8) = rd ∧ fieldOff8 (wordI8 op5 rd off8) = off8 :=
  wordI8_eq_iff.1 rfl

theorem fields_wordJ8 (cond : BitVec 4) (off8 : BitVec 8) :
    fieldOp5 (wordJ8 cond off8) = (if cond.msb then 0b10111#5 else 0b10110#5) ∧
      fieldCond (wordJ8 cond off8) = cond ∧ fieldOff8 (wordJ8 cond off8) = off8 :=
  wordJ8_eq_iff.1 rfl

theorem fields_wordX13 (imm13 : BitVec 13) :
    fieldOp5 (wordX13 imm13) ∈ [0b11000#5, 0b11001#5, 0b11010#5, 0b11011#5] ∧ fieldImm13 (wordX13 imm13) = imm13 :=
  wordX13_eq_iff.1 rfl

end Sys2Proof.Proofs.WordFields
end

section
/-! Decoding after encoding, and encoding after decoding (spec/30_encoding.md R61 to R68, R75, R77, R81). -/

namespace Sys2Proof.Proofs.Encoding
open Sys2Proof Sys2Proof.Machine Sys2Proof.Proofs.WordFields

/-! ## Decoding the word of an instruction -/

/-- A J8 word is a jump unless it is a JR word: `cond` bit 11 set and `off8` = 0 (R77). -/
theorem decode_wordJ8 {cond : BitVec 4} {off8 : BitVec 8} (h : cond.msb = true → off8 ≠ 0#8) :
    decode (wordJ8 cond off8) = .ok (decodeCond cond off8) := by
  obtain ⟨hop, hcond, hoff⟩ := fields_wordJ8 cond off8
  cases hc : cond.msb with
  | false => simp [decode, hop, hc, hcond, hoff]
  | true => simp [decode, decodeJumpOrJr, hop, hc, hcond, hoff, h hc]

/-- The two low bits of an EXTI word's `op5` belong to its `imm13` (R64). -/
theorem decode_wordX13 (imm13 : BitVec 13) : decode (wordX13 imm13) = .ok (.exti imm13) := by
  obtain ⟨hop, himm⟩ := fields_wordX13 imm13
  simp only [List.mem_cons, List.not_mem_nil, or_false] at hop
  rcases hop with hop | hop | hop | hop <;> simp [decode, hop, himm]

/-- Settles O3, by format: the fields of the word are the operands, and `op5`, `type` or `cond` selects the constructor. -/
theorem decodeOfEncode : Obligations.DecodeOfEncode := by
  intro i h
  cases i with
  | and | or | xor | cmp => simp [encode, decode, decodeLogic, Instr.canonical]
  | andi | ori | xori | cmpi => simp [encode, decode, decodeLogicImm, Instr.canonical]
  | add | adc | sub | sbb => simp [encode, decode, decodeArith, Instr.canonical]
  | addi | adci | subi | sbbi => simp [encode, decode, decodeArithImm, Instr.canonical]
  | sll | rot | srl | sra => simp [encode, decode, decodeShift, Instr.canonical]
  | slli | roti | srli | srai => simp [encode, decode, decodeShiftImm, Instr.canonical]
  | adjw1 | adjw2 => simp [encode, decode, decodeWindow, Instr.canonical]
  | ld | ldi | st | sti | ldx | stx => simp [encode, decode, Instr.canonical]
  | ldxz | stxz | mova | movi | jal => simp [encode, decode, Instr.canonical]
  | jr => simp [encode, decode, decodeJumpOrJr, Instr.canonical]
  | jnz | jne | jns | jnc | jult | jno | jugt | jsge | jsgt | jn => exact decode_wordJ8 nofun
  | jz | je | js | jc | juge | jo | jule | jslt | jsle | j => exact decode_wordJ8 fun _ => bne_iff_ne.1 h
  | exti imm13 => exact decode_wordX13 imm13

/-! ## What the decoder answers -/

/-- The word is that of the instruction, which is well-formed and spelled as the decoder spells it (R66). -/
def IsWordOf (w : Word) (i : Instr) : Prop := encode i = w ∧ i.wellFormed = true ∧ i.canonical = i

/-- The word is in one of the three groups of R75: an unused `op5`, a compare with `Rd` bits set, or an `op5` of ADJW with
the pattern of neither form. -/
def Unlisted (w : Word) : Prop :=
  fieldOp5 w ∈ [0b00110#5, 0b10011#5, 0b10100#5, 0b10101#5, 0b11100#5, 0b11101#5, 0b11110#5, 0b11111#5] ∨
  (fieldOp5 w ∈ [0b00000#5, 0b00001#5] ∧ fieldType w = 0b11#2 ∧ fieldRd w ≠ 0b000#3) ∨
  (fieldOp5 w = 0b00111#5 ∧ ¬(fieldRd w = 0b000#3 ∧ fieldRa w = 0b000#3 ∧ fieldType w = 0b11#2) ∧
    ¬(fieldRa w = 0b001#3 ∧ fieldType w = 0b11#2))

/-- Everything the decoder can answer of a word: an instruction with that word, or an error on a word that R75 leaves
out. -/
inductive Verdict (w : Word) : Except Reject Instr → Prop where
  | listed {i : Instr} (h : IsWordOf w i) : Verdict w (.ok i)
  | unlisted {r : Reject} (h : Unlisted w) : Verdict w (.error r)

/-- The last of the four sub-opcodes of a three-operand family (R67). -/
theorem fieldType_eq_of_ne {w : Word} (h0 : fieldType w ≠ 0b00#2) (h1 : fieldType w ≠ 0b01#2)
    (h2 : fieldType w ≠ 0b10#2) : fieldType w = 0b11#2 := by
  generalize fieldType w = type at *
  revert type
  decide

/-- The major opcodes of the table of R64, and the others. -/
theorem op5_listed_or_unlisted (op5 : BitVec 5) :
    op5 ∈ [0b00000#5, 0b00001#5, 0b00010#5, 0b00011#5, 0b00100#5, 0b00101#5, 0b00111#5, 0b01000#5, 0b01001#5,
      0b01010#5, 0b01011#5, 0b01100#5, 0b01101#5, 0b01110#5, 0b01111#5, 0b10000#5, 0b10001#5, 0b10010#5, 0b10110#5,
      0b10111#5, 0b11000#5, 0b11001#5, 0b11010#5, 0b11011#5] ∨
    op5 ∈ [0b00110#5, 0b10011#5, 0b10100#5, 0b10101#5, 0b11100#5, 0b11101#5, 0b11110#5, 0b11111#5] := by
  revert op5
  decide

theorem msb_fieldCond (w : Word) : (fieldCond w).msb = (fieldOp5 w).getLsbD 0 := by
  simp [fieldCond, fieldOp5, BitVec.msb_eq_getLsbD_last]

/-- Each of the sixteen `cond` has its one jump, in the spelling of log 17; those with bit 11 set need `off8` ≠ 0 (R77). -/
theorem isWordOf_decodeCond {cond : BitVec 4} {off8 : BitVec 8} (h : cond.msb = true → off8 ≠ 0#8) :
    IsWordOf (wordJ8 cond off8) (decodeCond cond off8) := by
  unfold decodeCond
  split
  case h_1 | h_2 | h_3 | h_4 | h_5 | h_6 | h_7 | h_8 => exact ⟨rfl, rfl, rfl⟩
  case h_9 | h_10 | h_11 | h_12 | h_13 | h_14 | h_15 => exact ⟨rfl, bne_iff_ne.2 (h rfl), rfl⟩
  case h_16 =>
    obtain rfl : cond = 0b1111#4 := by
      clear h
      revert cond
      decide
    exact ⟨rfl, bne_iff_ne.2 (h rfl), rfl⟩

/-- A J8 word is the word of its jump. -/
theorem isWordOf_of_cond {w : Word} (hop : fieldOp5 w = if (fieldCond w).msb then 0b10111#5 else 0b10110#5)
    (h : (fieldCond w).msb = true → fieldOff8 w ≠ 0#8) : IsWordOf w (decodeCond (fieldCond w) (fieldOff8 w)) := by
  have hi := isWordOf_decodeCond h
  rwa [wordJ8_eq_iff.2 ⟨hop, rfl, rfl⟩] at hi

/-- `op5` = `00111` has the two ADJW patterns and no other. -/
theorem verdict_decodeWindow {w : Word} (hop : fieldOp5 w = 0b00111#5) : Verdict w (decodeWindow w) := by
  unfold decodeWindow
  split
  next ht =>
    split
    next hra => exact .listed ⟨wordR3_eq_iff.2 ⟨hop, rfl, hra, ht, rfl⟩, rfl, rfl⟩
    next hra =>
      split
      next h0 =>
        obtain ⟨hra0, hrd0⟩ := h0
        exact .listed ⟨wordR3_eq_iff.2 ⟨hop, hrd0, hra0, ht, rfl⟩, rfl, rfl⟩
      next h0 =>
        exact .unlisted (.inr (.inr ⟨hop, fun ⟨hrd0, hra0, _⟩ => h0 ⟨hra0, hrd0⟩, fun ⟨hra1, _⟩ => hra hra1⟩))
  next ht => exact .unlisted (.inr (.inr ⟨hop, fun ⟨_, _, ht3⟩ => ht ht3, fun ⟨_, ht3⟩ => ht ht3⟩))

/-- `op5` = `10111`: JR, or a jump with `cond` bit 11 set (R77). -/
theorem isWordOf_decodeJumpOrJr {w : Word} (hop : fieldOp5 w = 0b10111#5) : IsWordOf w (decodeJumpOrJr w) := by
  unfold decodeJumpOrJr
  split
  next hoff => exact ⟨wordI8_eq_iff.2 ⟨hop, rfl, hoff⟩, rfl, rfl⟩
  next hoff => exact isWordOf_of_cond (by simp [msb_fieldCond, hop]) fun _ => hoff

theorem verdict_decode (w : Word) : Verdict w (decode w) := by
  unfold decode
  split
  -- the bitwise families, in which a compare has no `Rd`
  case h_1 hop | h_2 hop =>
    simp only [decodeLogic, decodeLogicImm]
    split
    case h_1 ht | h_2 ht | h_3 ht => exact .listed ⟨wordR3_eq_iff.2 ⟨hop, rfl, rfl, ht, rfl⟩, rfl, rfl⟩
    case h_4 h0 h1 h2 =>
      have ht := fieldType_eq_of_ne h0 h1 h2
      split
      next hrd => exact .listed ⟨wordR3_eq_iff.2 ⟨hop, hrd, rfl, ht, rfl⟩, rfl, rfl⟩
      next hrd => exact .unlisted (.inr (.inl ⟨by simp [hop], ht, hrd⟩))
  -- the arithmetic and shift families, full in `type`
  case h_3 hop | h_4 hop | h_5 hop | h_6 hop =>
    simp only [decodeArith, decodeArithImm, decodeShift, decodeShiftImm]
    split
    case h_1 ht | h_2 ht | h_3 ht => exact .listed ⟨wordR3_eq_iff.2 ⟨hop, rfl, rfl, ht, rfl⟩, rfl, rfl⟩
    case h_4 h0 h1 h2 =>
      exact .listed ⟨wordR3_eq_iff.2 ⟨hop, rfl, rfl, fieldType_eq_of_ne h0 h1 h2, rfl⟩, rfl, rfl⟩
  case h_7 hop => exact verdict_decodeWindow hop
  -- the formats M5 and I8
  case h_8 hop | h_9 hop | h_10 hop | h_11 hop | h_12 hop | h_14 hop =>
    exact .listed ⟨wordM5_eq_iff.2 ⟨hop, rfl, rfl, rfl⟩, rfl, rfl⟩
  case h_13 hop | h_15 hop | h_16 hop | h_17 hop | h_18 hop =>
    exact .listed ⟨wordI8_eq_iff.2 ⟨hop, rfl, rfl⟩, rfl, rfl⟩
  -- the jumps
  case h_19 hop =>
    have hc : (fieldCond w).msb = false := by simp [msb_fieldCond, hop]
    exact .listed (isWordOf_of_cond (by simp [hc, hop]) fun h => nomatch hc.symm.trans h)
  case h_20 hop => exact .listed (isWordOf_decodeJumpOrJr hop)
  -- EXTI, by its four `op5`
  case h_21 hop | h_22 hop | h_23 hop | h_24 hop =>
    exact .listed ⟨wordX13_eq_iff.2 ⟨by simp [hop], rfl⟩, rfl, rfl⟩
  -- no listed `op5` is left
  case h_25 => exact .unlisted (.inl ((op5_listed_or_unlisted _).resolve_left (by simp_all)))

/-- Settles O4: the other verdict is an error. -/
theorem encodeOfDecode : Obligations.EncodeOfDecode := by
  intro w i h
  have hw := h ▸ verdict_decode w
  cases hw with
  | listed hi => exact hi

/-! ## Words that are not listed -/

theorem decodeWindow_eq_error {w : Word} (h1 : ¬(fieldRd w = 0b000#3 ∧ fieldRa w = 0b000#3 ∧ fieldType w = 0b11#2))
    (h2 : ¬(fieldRa w = 0b001#3 ∧ fieldType w = 0b11#2)) : decodeWindow w = .error .windowPattern := by
  unfold decodeWindow
  split
  next ht => rw [if_neg fun hra => h2 ⟨hra, ht⟩, if_neg fun ⟨hra0, hrd0⟩ => h1 ⟨hrd0, hra0, ht⟩]
  next => rfl

/-- Each group has its own reason. -/
theorem decode_of_unlisted {w : Word} (h : Unlisted w) : ∃ r, decode w = .error r := by
  simp only [Unlisted, List.mem_cons, List.not_mem_nil, or_false] at h
  rcases h with hop | ⟨hop, ht, hrd⟩ | ⟨hop, h1, h2⟩
  · refine ⟨.unlistedOpcode, ?_⟩
    rcases hop with hop | hop | hop | hop | hop | hop | hop | hop <;> simp [decode, hop]
  · refine ⟨.compareWithRd, ?_⟩
    rcases hop with hop | hop <;> simp [decode, decodeLogic, decodeLogicImm, hop, ht, hrd]
  · refine ⟨.windowPattern, ?_⟩
    simp only [decode, hop]
    exact decodeWindow_eq_error h1 h2

/-- A word fails to decode exactly when it is in one of the groups. -/
theorem decode_eq_error_iff (w : Word) : (∃ r, decode w = .error r) ↔ Unlisted w := by
  refine ⟨fun ⟨r, h⟩ => ?_, decode_of_unlisted⟩
  have hw := h ▸ verdict_decode w
  cases hw with
  | unlisted hu => exact hu

/-- Bits 10:3 and 7:3, by which R75 tells the two ADJW patterns. -/
theorem windowBits_iff (w : Word) :
    (w.extractLsb' 3 8 = 0b00000011#8 ↔ fieldRd w = 0b000#3 ∧ fieldRa w = 0b000#3 ∧ fieldType w = 0b11#2) ∧
    (w.extractLsb' 3 5 = 0b00111#5 ↔ fieldRa w = 0b001#3 ∧ fieldType w = 0b11#2) := by
  simp only [← BitVec.toNat_inj, fieldRd_toNat, fieldRa_toNat, fieldType_toNat, BitVec.extractLsb'_toNat,
    Nat.shiftRight_eq_div_pow, BitVec.toNat_ofNat]
  omega

/-- Settles O5: the groups of R75 with bits 10:3 and 7:3 read as fields. -/
theorem unlistedWordsAreExactlyThese : Obligations.UnlistedWordsAreExactlyThese := by
  refine ⟨fun w => ?_, fun s r hpres hdec => ?_⟩
  · obtain ⟨h1, h2⟩ := windowBits_iff w
    rw [decode_eq_error_iff, Unlisted, ← h1, ← h2]
    rfl
  · simp [step, fetchThen, memRead_of_present hpres, decodeFetched, hdec]

/-! ## Shared words -/

/-- Settles O7: the other spelling is the canonical one, and both are the jump of one `cond`. -/
theorem sharedEncodingsShareTheEffect : Obligations.SharedEncodingsShareTheEffect := fun off8 _ =>
  ⟨⟨(Laws.AliasWord.jne off8).1.symm, rfl⟩, ⟨(Laws.AliasWord.jult off8).1.symm, rfl⟩,
    ⟨(Laws.AliasWord.je off8).1.symm, rfl⟩, ⟨(Laws.AliasWord.juge off8).1.symm, rfl⟩⟩

end Sys2Proof.Proofs.Encoding
end

section
/-! The long forms, and JR: what an EXTI before an instruction makes of its field (spec/30_encoding.md R69 to R71, R77, R78;
spec/45_move_exti.md R144; spec/46_jump.md R147, R149). -/

namespace Sys2Proof.Proofs.LongForms
open Sys2Proof Sys2Proof.Machine Sys2Proof.Proofs.WordFields Sys2Proof.Proofs.Encoding Sys2Proof.Proofs.StateWords
  Sys2Proof.Proofs.Completion Sys2Proof.Proofs.AccessOrder

/-! ## Upper field bits in a long form -/

theorem upperBits_ne_zero {n : Nat} {f : BitVec (n + 3)} (h : 8 ≤ f.toNat) : f.extractLsb' 3 n ≠ 0#n := by
  have hf := f.isLt
  rw [Nat.pow_add, Nat.mul_comm] at hf
  have hlt : f.toNat / 8 < 2 ^ n := Nat.div_lt_of_lt_mul hf
  rw [ne_eq, ← BitVec.toNat_inj, BitVec.extractLsb'_toNat, Nat.shiftRight_eq_div_pow, Nat.mod_eq_of_lt hlt]
  simp only [BitVec.toNat_zero]
  omega

theorem attempt_offM5_refused {s : State} {off5 : BitVec 5} (hx : s.hasExt13 = true) (h : 8 ≤ off5.toNat)
    (k : Word → Result) : attempt (offM5 s off5) k = .refused .longFormUpperBits := by
  simp [offM5, hx, upperBits_ne_zero (n := 2) h]

theorem attempt_offI8_refused {s : State} {off8 : BitVec 8} (hx : s.hasExt13 = true) (h : 8 ≤ off8.toNat)
    (k : Word → Result) : attempt (offI8 s off8) k = .refused .longFormUpperBits := by
  simp [offI8, hx, upperBits_ne_zero (n := 5) h]

/-- Settles O50: a wide field is checked before anything else, and a form with a 3-bit field is always defined. -/
theorem longFormWithUpperBitsIsRefused : Obligations.LongFormWithUpperBitsIsRefused := by
  refine fun r ra s hx => ⟨fun off5 h i hi => ?_, fun off8 h i hi => ?_, fun imm3 i hi hpres => ?_⟩
  · fin_cases hi <;> exact attempt_offM5_refused hx h _
  · fin_cases hi <;> exact attempt_offI8_refused hx h _
  · have hform : formDefined i s := by fin_cases hi <;> trivial
    exact (exec_visits hform).completes_iff.2 hpres

/-! ## Long forms that are laid out for a value -/

/-- The field of the EXTI and the field after it make the value (R144). -/
theorem extOf_append_lowOf (v : Word) : (extOf v ++ lowOf v : Word) = v := by
  have hv := v.isLt
  apply BitVec.eq_of_toNat_eq
  rw [toNat_append_eq_add]
  simp only [extOf, lowOf, BitVec.extractLsb'_toNat, Nat.shiftRight_eq_div_pow]
  omega

/-- The state in which EXTI leaves `s` (R142). -/
def extiDone (s : State) (e : BitVec 13) : State := ((s.setExt13 e).setPc (s.pc + 1#16)).setHasExt13 true

theorem exec_exti (e : BitVec 13) (s : State) : exec (.exti e) s = .next (extiDone s e) :=
  exec_exti_eq_next.2 rfl

theorem effImm3_extiDone (s : State) (v : Word) : effImm3 (extiDone s (extOf v)) (lowOf v) = v :=
  extOf_append_lowOf v

theorem effOff8_extiDone (s : State) (v : Word) : effOff8 (extiDone s (extOf v)) (0#5 ++ lowOf v) = v := by
  have hlow : (0#5 ++ lowOf v : BitVec 8).extractLsb' 0 3 = lowOf v := BitVec.extractLsb'_append_eq_right
  exact (congrArg (extOf v ++ ·) hlow).trans (extOf_append_lowOf v)

/-- The assembler's long form has zeros above bit 2 of a wide field (R79, D24). -/
theorem longOk8_zeros_append (s : State) (low : BitVec 3) : longOk8 s (0#5 ++ low) :=
  fun _ => BitVec.extractLsb'_append_eq_left

theorem runInstrs_longPair {v : Word} {instr : BitVec 3 → Instr} {s t : State}
    (h : exec (instr (lowOf v)) (extiDone s (extOf v)) = .next t) : runInstrs (longPair v instr) s = .next t := by
  simp [longPair, runInstrs, exec_exti, h]

theorem addFlags_word (a b : Word) : (addFlags a b false).1 = a + b := by
  apply BitVec.eq_of_toNat_eq
  simp [addFlags, bit17, BitVec.extractLsb'_toNat]

/-- Settles O51: after the EXTI the operand of either instruction is the value itself. -/
theorem longFormsReachEveryValue : Obligations.LongFormsReachEveryValue := by
  intro v rd ra s hrd hra
  constructor
  · refine ⟨_, runInstrs_longPair (exec_movi_eq_next.2 ⟨longOk8_zeros_append _ _, hrd, rfl⟩), ?_, rfl⟩
    rw [regWord_retire_putWord, effOff8_extiDone]
  · refine ⟨_, runInstrs_longPair (exec_addi_eq_next.2 ⟨hra, hrd, rfl⟩), ?_, rfl⟩
    refine (regWord_retire_putWord _ rd _).trans ?_
    rw [effImm3_extiDone, addFlags_word]
    rfl

/-! ## A jump to a label -/

theorem run_two {s t u : State} (hs : step s = .next t) (ht : step t = .next u) :
    Host.Core.run Sys2Proof.core 2 s = .next u := by
  have hs' : Sys2Proof.core.step s = .next t := hs
  have ht' : Sys2Proof.core.step t = .next u := ht
  simp only [Host.Core.run, hs', ht']

/-- The EXTI word that holds the upper bits of an offset. -/
theorem ofNat_eq_wordX13 (d : Word) : BitVec.ofNat 16 (0xC000 + d.toNat / 8) = wordX13 (extOf d) := by
  have hd := d.isLt
  apply BitVec.eq_of_toNat_eq
  simp only [wordX13_toNat, extOf, BitVec.extractLsb'_toNat, Nat.shiftRight_eq_div_pow, BitVec.toNat_ofNat]
  omega

/-- The J word that holds its low bits. -/
theorem ofNat_eq_wordJ8 (d : Word) : BitVec.ofNat 16 (0xBF00 + d.toNat % 8) = wordJ8 0b1111#4 (0#5 ++ lowOf d) := by
  apply BitVec.eq_of_toNat_eq
  simp only [wordJ8_toNat, toNat_append_eq_add, lowOf, BitVec.extractLsb'_toNat, Nat.shiftRight_eq_div_pow,
    BitVec.toNat_ofNat]
  omega

theorem zeros_append_lowOf_ne {d : Word} (h : d.toNat % 8 ≠ 0) : (0#5 ++ lowOf d : BitVec 8) ≠ 0#8 := by
  rw [ne_eq, ← BitVec.toNat_inj]
  simp only [toNat_append_eq_add, lowOf, BitVec.extractLsb'_toNat, Nat.shiftRight_eq_div_pow, BitVec.toNat_ofNat]
  omega

/-- Settles O59: the first word decodes to EXTI, the second to J and not to JR, whose `off8` = 0 an offset that is no multiple
of 8 avoids (R77). -/
theorem longJumpReachesItsLabel : Obligations.LongJumpReachesItsLabel := by
  intro label s hpc hnext hd hexti hj
  generalize hoff : label - (s.pc + 2#16) = d at hd hexti hj
  rw [ofNat_eq_wordX13] at hexti
  rw [ofNat_eq_wordJ8] at hj
  have hfirst : step s = .next (extiDone s (extOf d)) := by
    rw [stepRunsTheDecodedInstruction s (.exti (extOf d)) hpc (hexti ▸ decode_wordX13 _), exec_exti]
  have hdec : decode (memWord s.mem (s.pc + 1#16)) = .ok (.j (0#5 ++ lowOf d)) :=
    hj ▸ decode_wordJ8 fun _ => zeros_append_lowOf_ne hd
  have hsecond := stepRunsTheDecodedInstruction (extiDone s (extOf d)) _ hnext hdec
  rw [exec_j_eq_next.2 ⟨longOk8_zeros_append _ _, rfl⟩, effOff8_extiDone] at hsecond
  refine ⟨_, run_two hfirst hsecond, ?_, rfl, fun _ => rfl⟩
  show s.pc + 1#16 + 1#16 + d = label
  subst hoff
  bv_omega

/-! ## JR -/

theorem jr_word (ra : Reg) : 0xB800#16 + BitVec.ofNat 16 (ra.toNat * 256) = encode (.jr ra) := by
  have hra := ra.isLt
  apply BitVec.eq_of_toNat_eq
  simp only [encode, wordI8_toNat, BitVec.toNat_add, BitVec.toNat_ofNat]
  omega

/-- Settles O57. -/
theorem jumpRegister : Obligations.JumpRegister := by
  refine fun ra s => ⟨?_, fun hx hra => ?_, fun hx => ?_⟩
  · rw [jr_word, decodeOfEncode (.jr ra) rfl, Instr.canonical]
  · exact ⟨_, exec_jr_eq_next.2 ⟨hx, hra, rfl⟩, rfl, fun _ => rfl, ⟨rfl, rfl, rfl, rfl, rfl⟩, ⟨rfl, rfl⟩⟩
  · simp [exec, execJr, hx]

end Sys2Proof.Proofs.LongForms
end

section
/-! The adder and the subtracter of the arithmetic unit in numbers (spec/40_arithmetic.md R90, R91): the word and `C` are
together the 17-bit result, and the other flags are read from the word. -/

namespace Sys2Proof.Proofs.ArithFlags
open Sys2Proof Sys2Proof.Machine

/-! ## Bits in numbers -/

theorem signBit_eq (w : Word) : w.getLsbD 15 = decide (32768 ≤ w.toNat) := by
  have hw := w.isLt
  have hbit : w.getLsbD 15 = decide (w.toNat / 32768 % 2 = 1) := Nat.testBit_eq_decide_div_mod_eq
  rw [hbit, decide_eq_decide]
  omega

theorem signBit_iff (w : Word) : w.getLsbD 15 = true ↔ 32768 ≤ w.toNat := by
  rw [signBit_eq, decide_eq_true_iff]

theorem beq_zero_iff (w : Word) : (w == 0#16) = true ↔ w.toNat = 0 := by
  rw [beq_iff_eq, ← BitVec.toNat_inj, BitVec.toNat_ofNat, Nat.zero_mod]

theorem bit17_toNat (b : Bool) : (bit17 b).toNat = b.toNat := by
  cases b <;> rfl

/-- A 17-bit result is its low word and its carry or borrow bit. -/
theorem low_add_top (x : BitVec 17) :
    (x.extractLsb' 0 16).toNat + 65536 * (x.getLsbD 16).toNat = x.toNat := by
  have hx := x.isLt
  have hlow : (x.extractLsb' 0 16).toNat = x.toNat % 65536 := BitVec.extractLsb'_toNat 0 16 x
  have htop : (x.getLsbD 16).toNat = x.toNat / 65536 % 2 := Nat.toNat_testBit x.toNat 16
  omega

/-! ## Addition -/

/-- The 17-bit sum of R90. -/
def wideSum (a b : Word) (cin : Bool) : BitVec 17 := a.zeroExtend 17 + b.zeroExtend 17 + bit17 cin

/-- No sum of two words and a carry leaves 17 bits. -/
theorem wideSum_toNat (a b : Word) (cin : Bool) : (wideSum a b cin).toNat = a.toNat + b.toNat + cin.toNat := by
  have ha := a.isLt
  have hb := b.isLt
  have hc := cin.toNat_le
  simp only [wideSum, BitVec.toNat_add, BitVec.zeroExtend_eq_setWidth, BitVec.toNat_setWidth, bit17_toNat]
  omega

theorem addFlags_total (a b : Word) (cin : Bool) :
    (addFlags a b cin).1.toNat + 65536 * (addFlags a b cin).2.c.toNat = a.toNat + b.toNat + cin.toNat :=
  (low_add_top (wideSum a b cin)).trans (wideSum_toNat a b cin)

theorem addFlags_z (a b : Word) (cin : Bool) : (addFlags a b cin).2.z = ((addFlags a b cin).1 == 0#16) := rfl

theorem addFlags_s (a b : Word) (cin : Bool) : (addFlags a b cin).2.s = (addFlags a b cin).1.getLsbD 15 := by
  simp [addFlags]

theorem addFlags_v (a b : Word) (cin : Bool) : (addFlags a b cin).2.v =
    (a.getLsbD 15 == b.getLsbD 15 && a.getLsbD 15 != (addFlags a b cin).1.getLsbD 15) := by
  rw [← addFlags_s]
  rfl

theorem addFlags_c_iff (a b : Word) (cin : Bool) :
    (addFlags a b cin).2.c = true ↔ 65536 ≤ a.toNat + b.toNat + cin.toNat := by
  have hword := (addFlags a b cin).1.isLt
  have hle := (addFlags a b cin).2.c.toNat_le
  rw [← Bool.toNat_eq_one, ← addFlags_total]
  omega

theorem addFlags_word_toNat (a b : Word) (cin : Bool) :
    (addFlags a b cin).1.toNat = (a.toNat + b.toNat + cin.toNat) % 65536 := by
  have hword := (addFlags a b cin).1.isLt
  rw [← addFlags_total]
  omega

theorem addFlags_word_eq_ofNat (a b : Word) (cin : Bool) :
    (addFlags a b cin).1 = BitVec.ofNat 16 (a.toNat + b.toNat + cin.toNat) :=
  BitVec.eq_of_toNat_eq (addFlags_word_toNat a b cin)

/-- `V` looks at three sign bits: operands of one sign with a result of the other say that the signed sum is out of range,
because a sum of operands of different signs never is. -/
theorem addOverflow_iff {a b w : Word} {cin : Bool} (hw : w.toNat = (a.toNat + b.toNat + cin.toNat) % 65536) :
    (a.getLsbD 15 == b.getLsbD 15 && a.getLsbD 15 != w.getLsbD 15) = true ↔
      a.toInt + b.toInt + cin.toNat < -32768 ∨ 32767 < a.toInt + b.toInt + cin.toNat := by
  have ha := a.isLt
  have hb := b.isLt
  have hc := cin.toNat_le
  simp only [signBit_eq, Bool.and_eq_true, beq_iff_eq, bne_iff_ne, ne_eq, decide_eq_decide, BitVec.toInt_eq_toNat_cond]
  split <;> split <;> omega

theorem addFlags_say (a b : Word) (cin : Bool) : AddFlagsSay a b cin (addFlags a b cin).2 := by
  have hword := addFlags_word_toNat a b cin
  refine ⟨?z, ?s, addFlags_c_iff a b cin, ?v⟩
  case z => rw [addFlags_z, beq_zero_iff, hword]
  case s => rw [addFlags_s, signBit_iff, hword]
  case v => rw [addFlags_v, addOverflow_iff hword]

/-! ## Subtraction -/

/-- The 17-bit difference of R91. -/
def wideDiff (a b : Word) (bin : Bool) : BitVec 17 := a.zeroExtend 17 - b.zeroExtend 17 - bit17 bin

/-- A difference that is negative wraps at 2^17. -/
theorem wideDiff_toNat (a b : Word) (bin : Bool) :
    ((wideDiff a b bin).toNat : Int) = ((a.toNat : Int) - b.toNat - bin.toNat) % 131072 := by
  have ha := a.isLt
  have hb := b.isLt
  have hc := bin.toNat_le
  simp only [wideDiff, BitVec.toNat_sub, BitVec.zeroExtend_eq_setWidth, BitVec.toNat_setWidth, bit17_toNat]
  omega

/-- The word and the borrow, which is the complement of `C`. -/
theorem subFlags_total (a b : Word) (bin : Bool) :
    ((subFlags a b bin).1.toNat : Int) - 65536 * (!(subFlags a b bin).2.c).toNat =
      a.toNat - b.toNat - bin.toNat := by
  have ha := a.isLt
  have hb := b.isLt
  have hc := bin.toNat_le
  have hdiff := wideDiff_toNat a b bin
  have hsplit := low_add_top (wideDiff a b bin)
  have hlow : (subFlags a b bin).1 = (wideDiff a b bin).extractLsb' 0 16 := rfl
  have hborrow : (!(subFlags a b bin).2.c) = (wideDiff a b bin).getLsbD 16 := Bool.not_not _
  have hlt := ((wideDiff a b bin).extractLsb' 0 16).isLt
  have hle := ((wideDiff a b bin).getLsbD 16).toNat_le
  rw [hlow, hborrow]
  omega

theorem subFlags_z (a b : Word) (bin : Bool) : (subFlags a b bin).2.z = ((subFlags a b bin).1 == 0#16) := rfl

theorem subFlags_s (a b : Word) (bin : Bool) : (subFlags a b bin).2.s = (subFlags a b bin).1.getLsbD 15 := by
  simp [subFlags]

theorem subFlags_v (a b : Word) (bin : Bool) : (subFlags a b bin).2.v =
    (a.getLsbD 15 == !b.getLsbD 15 && a.getLsbD 15 != (subFlags a b bin).1.getLsbD 15) := by
  rw [← subFlags_s]
  rfl

theorem subFlags_c_iff (a b : Word) (bin : Bool) :
    (subFlags a b bin).2.c = true ↔ b.toNat + bin.toNat ≤ a.toNat := by
  have htotal := subFlags_total a b bin
  have hword := (subFlags a b bin).1.isLt
  have hle := (!(subFlags a b bin).2.c).toNat_le
  rw [← Bool.not_eq_false', ← Bool.toNat_eq_zero]
  omega

theorem subFlags_word_toNat (a b : Word) (bin : Bool) :
    ((subFlags a b bin).1.toNat : Int) = ((a.toNat : Int) - b.toNat - bin.toNat) % 65536 := by
  have hword := (subFlags a b bin).1.isLt
  rw [← subFlags_total]
  omega

theorem subFlags_word_eq_ofInt (a b : Word) (bin : Bool) :
    (subFlags a b bin).1 = BitVec.ofInt 16 (a.toNat - b.toNat - bin.toNat) := by
  apply BitVec.eq_of_toNat_eq
  rw [BitVec.toNat_ofInt, ← Int.natCast_inj, subFlags_word_toNat]
  omega

/-- As `addOverflow_iff`, with operands of different signs. -/
theorem subOverflow_iff {a b w : Word} {bin : Bool}
    (hw : (w.toNat : Int) = ((a.toNat : Int) - b.toNat - bin.toNat) % 65536) :
    (a.getLsbD 15 == !b.getLsbD 15 && a.getLsbD 15 != w.getLsbD 15) = true ↔
      a.toInt - b.toInt - bin.toNat < -32768 ∨ 32767 < a.toInt - b.toInt - bin.toNat := by
  have ha := a.isLt
  have hb := b.isLt
  have hc := bin.toNat_le
  simp only [signBit_eq, Bool.and_eq_true, beq_iff_eq, bne_iff_ne, ne_eq, ← decide_not, decide_eq_decide,
    BitVec.toInt_eq_toNat_cond]
  split <;> split <;> omega

theorem subFlags_say (a b : Word) (bin : Bool) : SubFlagsSay a b bin (subFlags a b bin).2 := by
  have hword := subFlags_word_toNat a b bin
  refine ⟨?z, ?s, subFlags_c_iff a b bin, ?v⟩
  case z => rw [subFlags_z, beq_zero_iff, ← hword, Int.natCast_eq_zero]
  case s => rw [subFlags_s, signBit_iff, ← hword, Nat.ofNat_le_cast]
  case v => rw [subFlags_v, subOverflow_iff hword]

/-- Settles O31. In range, `S` is the sign of the true difference; out of range it is the opposite sign, and `V` corrects
it. -/
theorem subtractionFlagsOrderTheOperands : Obligations.SubtractionFlagsOrderTheOperands := by
  intro a b
  obtain ⟨hz, hs, hc, hv⟩ := subFlags_say a b false
  have ha := a.isLt
  have hb := b.isLt
  refine ⟨hc, ?equal, ?signedLess⟩
  case equal =>
    rw [hz, ← BitVec.toNat_inj, Bool.toNat_false]
    omega
  case signedLess =>
    rw [Bool.xor_iff_ne, ne_eq, Bool.eq_iff_iff, hs, hv, Bool.toNat_false, BitVec.toInt_eq_toNat_cond,
      BitVec.toInt_eq_toNat_cond]
    split <;> split <;> omega

end Sys2Proof.Proofs.ArithFlags
end

section
/-! The arithmetic and compare instructions: each ends by writing the adder's or the subtracter's word and flags, and two of
them in a row add or subtract 32-bit numbers (spec/40_arithmetic.md R93 to R103). -/

namespace Sys2Proof.Proofs.Arithmetic
open Sys2Proof Sys2Proof.Machine Sys2Proof.Proofs.ArithFlags Sys2Proof.Proofs.StateWords

/-- The state in which `finishArith`, the shared end of the arithmetic instructions, leaves `s` after writing the word of `r`
to `rd` and its flags. -/
def arithDone (s : State) (rd : Reg) (r : Word × Flags) : State :=
  retire ((s.setMem (putWord s.mem (regAddr s.w rd) r.1)).setFlags r.2)

theorem regWord_arithDone_same (s : State) (rd : Reg) (r : Word × Flags) : regWord (arithDone s rd r) rd = r.1 :=
  memWord_putWord_same s.mem (regAddr s.w rd) r.1

theorem regWord_arithDone_other (s : State) {rd i : Reg} (r : Word × Flags) (h : i ≠ rd) :
    regWord (arithDone s rd r) i = regWord s i :=
  memWord_putWord_other s.mem r.1 fun haddr => h (regAddr_inj haddr).2

/-! ## One instruction -/

/-- Whatever is known of the flags of `r`, the end of an arithmetic instruction writes them, the word, and nothing else. -/
theorem writesRegister_arithDone {i : Instr} {s : State} {rd : Reg} {r : Word × Flags} {say : Flags → Prop}
    (h : exec i s = .next (arithDone s rd r)) (hsay : say r.2) :
    WritesRegister i s rd r.1 (fun t => say t.flags ∧ t.draws = s.draws) :=
  ⟨_, h, ⟨regWord_arithDone_same s rd r, fun _ => readByte_putWord_other s.mem _ r.1⟩, ⟨rfl, rfl, rfl, rfl, rfl⟩,
    hsay, rfl⟩

theorem writesRegister_sum {i : Instr} {s : State} {rd : Reg} {a b : Word} {cin : Bool}
    (h : exec i s = .next (arithDone s rd (addFlags a b cin))) :
    WritesRegister i s rd (BitVec.ofNat 16 (a.toNat + b.toNat + cin.toNat))
      (fun t => AddFlagsSay a b cin t.flags ∧ t.draws = s.draws) :=
  addFlags_word_eq_ofNat a b cin ▸ writesRegister_arithDone h (addFlags_say a b cin)

theorem writesRegister_difference {i : Instr} {s : State} {rd : Reg} {a b : Word} {bin : Bool}
    (h : exec i s = .next (arithDone s rd (subFlags a b bin))) :
    WritesRegister i s rd (BitVec.ofInt 16 (a.toNat - b.toNat - bin.toNat))
      (fun t => SubFlagsSay a b bin t.flags ∧ t.draws = s.draws) :=
  subFlags_word_eq_ofInt a b bin ▸ writesRegister_arithDone h (subFlags_say a b bin)

/-- A difference without borrow in, where the statements leave the borrow out. -/
theorem writesRegister_difference_noBorrow {i : Instr} {s : State} {rd : Reg} {a b : Word}
    (h : exec i s = .next (arithDone s rd (subFlags a b false))) :
    WritesRegister i s rd (BitVec.ofInt 16 (a.toNat - b.toNat))
      (fun t => SubFlagsSay a b false t.flags ∧ t.draws = s.draws) := by
  simpa using writesRegister_difference h

/-- Settles O26. -/
theorem addAndAdcWriteSumAndFlags : Obligations.AddAndAdcWriteSumAndFlags := fun _ _ _ _ ha hb hd =>
  ⟨writesRegister_sum (exec_add_eq_next.2 ⟨ha, hb, hd, rfl⟩), writesRegister_sum (exec_adc_eq_next.2 ⟨ha, hb, hd, rfl⟩)⟩

/-- Settles O27. -/
theorem addiAndAdciWriteSumAndFlags : Obligations.AddiAndAdciWriteSumAndFlags := fun _ _ _ _ ha hd =>
  ⟨writesRegister_sum (exec_addi_eq_next.2 ⟨ha, hd, rfl⟩), writesRegister_sum (exec_adci_eq_next.2 ⟨ha, hd, rfl⟩)⟩

/-- Settles O28. -/
theorem subAndSbbWriteDifferenceAndFlags : Obligations.SubAndSbbWriteDifferenceAndFlags := fun _ _ _ _ ha hb hd =>
  ⟨writesRegister_difference_noBorrow (exec_sub_eq_next.2 ⟨ha, hb, hd, rfl⟩),
    writesRegister_difference (exec_sbb_eq_next.2 ⟨ha, hb, hd, rfl⟩)⟩

/-- Settles O29. -/
theorem subiAndSbbiWriteDifferenceAndFlags : Obligations.SubiAndSbbiWriteDifferenceAndFlags := fun _ _ _ _ ha hd =>
  ⟨writesRegister_difference_noBorrow (exec_subi_eq_next.2 ⟨ha, hd, rfl⟩),
    writesRegister_difference (exec_sbbi_eq_next.2 ⟨ha, hd, rfl⟩)⟩

/-- The end of CMP and CMPI writes the flags and nothing else. -/
theorem writesFlagsOnly {i : Instr} {s : State} {f : Flags} {say : Flags → Prop}
    (h : exec i s = .next (retire (s.setFlags f))) (hsay : say f) :
    ∃ t, exec i s = .next t ∧ SameMemory s t ∧ KeepsWindowAndBus s t ∧ say t.flags ∧ t.draws = s.draws :=
  ⟨_, h, fun _ => rfl, ⟨rfl, rfl, rfl, rfl, rfl⟩, hsay, rfl⟩

/-- Settles O30. -/
theorem cmpAndCmpiWriteFlagsOnly : Obligations.CmpAndCmpiWriteFlagsOnly :=
  ⟨fun _ _ _ ha hb => writesFlagsOnly (exec_cmp_eq_next.2 ⟨ha, hb, rfl⟩) (subFlags_say _ _ false),
    fun _ _ _ ha => writesFlagsOnly (exec_cmpi_eq_next.2 ⟨ha, rfl⟩) (subFlags_say _ _ false)⟩

/-! ## Two instructions, low word first -/

/-- Two arithmetic instructions with different destinations leave both words and the flags of the second. -/
theorem runInstrs_arithDone_twice {i j : Instr} {s : State} {d0 d1 : Reg} {low high : Word × Flags} (h : d0 ≠ d1)
    (hi : exec i s = .next (arithDone s d0 low))
    (hj : exec j (arithDone s d0 low) = .next (arithDone (arithDone s d0 low) d1 high)) :
    ∃ t, runInstrs [i, j] s = .next t ∧ regWord t d1 = high.1 ∧ regWord t d0 = low.1 ∧ t.flags = high.2 := by
  refine ⟨arithDone (arithDone s d0 low) d1 high, ?run, regWord_arithDone_same _ d1 high, ?low, rfl⟩
  case run => simp only [runInstrs, hi, hj]
  case low => rw [regWord_arithDone_other _ high h, regWord_arithDone_same]

/-- The carry out of the low sum is the carry in of the high one, so the two 17-bit totals make the 33-bit one. -/
theorem doubleSum {a0 b0 a1 b1 : Word} {low high : Word × Flags} (hlow : addFlags a0 b0 false = low)
    (hhigh : addFlags a1 b1 low.2.c = high) :
    high.1.toNat * 65536 + low.1.toNat =
      (a1.toNat * 65536 + a0.toNat + (b1.toNat * 65536 + b0.toNat)) % 4294967296 ∧
    (high.2.c = true ↔ 4294967296 ≤ a1.toNat * 65536 + a0.toNat + (b1.toNat * 65536 + b0.toNat)) := by
  have hlowTotal := addFlags_total a0 b0 false
  have hhighTotal := addFlags_total a1 b1 low.2.c
  rw [hlow, Bool.toNat_false] at hlowTotal
  rw [hhigh] at hhighTotal
  have hlowWord := low.1.isLt
  have hhighWord := high.1.isLt
  have hcarry := high.2.c.toNat_le
  rw [← Bool.toNat_eq_one]
  omega

/-- The borrow out of the low difference is the borrow in of the high one. -/
theorem doubleDifference {a0 b0 a1 b1 : Word} {low high : Word × Flags} (hlow : subFlags a0 b0 false = low)
    (hhigh : subFlags a1 b1 (!low.2.c) = high) :
    ((high.1.toNat * 65536 + low.1.toNat : Nat) : Int) =
      ((a1.toNat * 65536 + a0.toNat : Nat) - (b1.toNat * 65536 + b0.toNat : Nat) : Int) % 4294967296 ∧
    (high.2.c = true ↔ b1.toNat * 65536 + b0.toNat ≤ a1.toNat * 65536 + a0.toNat) := by
  have hlowTotal := subFlags_total a0 b0 false
  have hhighTotal := subFlags_total a1 b1 (!low.2.c)
  rw [hlow, Bool.toNat_false] at hlowTotal
  rw [hhigh] at hhighTotal
  have hlowWord := low.1.isLt
  have hhighWord := high.1.isLt
  have hborrow := (!high.2.c).toNat_le
  rw [← Bool.not_eq_false', ← Bool.toNat_eq_zero]
  omega

/-- Settles O32. The ADC reads `a1` and `b1` as they were before the ADD, and `C` as the ADD left it. -/
theorem addThenAdcAddsDoubleWords : Obligations.AddThenAdcAddsDoubleWords := by
  intro d0 a0 b0 d1 a1 b1 s hd0 ha0 hb0 hd1 ha1 hb1 hda hdb hdd
  have hadd : exec (.add d0 a0 b0) s = .next (arithDone s d0 (addFlags (regWord s a0) (regWord s b0) false)) :=
    exec_add_eq_next.2 ⟨ha0, hb0, hd0, rfl⟩
  obtain ⟨t, hrun, hhigh, hlow, hflags⟩ :=
    runInstrs_arithDone_twice hdd hadd (exec_adc_eq_next.2 ⟨ha1, hb1, hd1, rfl⟩)
  rw [regWord_arithDone_other s _ hda.symm, regWord_arithDone_other s _ hdb.symm] at hhigh hflags
  refine ⟨t, hrun, ?_⟩
  rw [hhigh, hlow, hflags]
  exact doubleSum rfl rfl

/-- Settles O33, as O32. -/
theorem subThenSbbSubtractsDoubleWords : Obligations.SubThenSbbSubtractsDoubleWords := by
  intro d0 a0 b0 d1 a1 b1 s hd0 ha0 hb0 hd1 ha1 hb1 hda hdb hdd
  have hsub : exec (.sub d0 a0 b0) s = .next (arithDone s d0 (subFlags (regWord s a0) (regWord s b0) false)) :=
    exec_sub_eq_next.2 ⟨ha0, hb0, hd0, rfl⟩
  obtain ⟨t, hrun, hhigh, hlow, hflags⟩ :=
    runInstrs_arithDone_twice hdd hsub (exec_sbb_eq_next.2 ⟨ha1, hb1, hd1, rfl⟩)
  rw [regWord_arithDone_other s _ hda.symm, regWord_arithDone_other s _ hdb.symm] at hhigh hflags
  refine ⟨t, hrun, ?_⟩
  rw [hhigh, hlow, hflags]
  exact doubleDifference rfl rfl

end Sys2Proof.Proofs.Arithmetic
end

section
/-! Words written out from the spec (spec/30_encoding.md R61 to R68). -/

namespace Sys2Proof.Proofs.WrittenWords
open Sys2Proof Sys2Proof.Machine Sys2Proof.Proofs.Encoding

theorem decode_of_encode_eq {w : Word} {i : Instr} (hw : encode i = w) (hform : i.wellFormed = true)
    (hspelling : i.canonical = i) : decode w = .ok i := by
  rw [← hw, decodeOfEncode i hform, hspelling]

/-- Settles O6: each word is the word of its instruction, so the round trip of O3 answers it. -/
theorem writtenWordsDecode : Obligations.WrittenWordsDecode :=
  ⟨decode_of_encode_eq rfl rfl rfl, decode_of_encode_eq rfl rfl rfl, decode_of_encode_eq rfl rfl rfl,
    decode_of_encode_eq rfl rfl rfl, decode_of_encode_eq rfl rfl rfl, decode_of_encode_eq rfl rfl rfl,
    decode_of_encode_eq rfl rfl rfl, decode_of_encode_eq rfl rfl rfl, decode_of_encode_eq rfl rfl rfl,
    decode_of_encode_eq rfl rfl rfl⟩

end Sys2Proof.Proofs.WrittenWords
end

section
/-! The bitwise instructions: each combines its operands bit by bit and ends as every logic instruction does
(spec/41_logic.md R104 to R110). -/

namespace Sys2Proof.Proofs.Logic
open Sys2Proof Sys2Proof.Machine Sys2Proof.Proofs.LogicIndependence Sys2Proof.Proofs.ArithFlags
  Sys2Proof.Proofs.WrittenWords

/-- The two flags that R104 defines are read from the result, as numbers say them. -/
theorem logicFlags_say (s : State) (v : Word) : LogicFlagsSay v (logicFlags s v).flags :=
  ⟨beq_iff_eq, signBit_iff v⟩

/-- The end of a bitwise, shift or rotate instruction writes its word, `Z` and `S` from that word, and no other byte. -/
theorem writesRegister_logicDone {i : Instr} {s : State} {rd : Reg} {v : Word}
    (h : exec i s = .next (logicDone s rd v)) : WritesRegister i s rd v (fun t => LogicFlagsSay v t.flags) :=
  ⟨_, h, ⟨memWord_putWord_same s.mem (regAddr s.w rd) v, fun _ => readByte_putWord_other s.mem _ v⟩,
    ⟨rfl, rfl, rfl, rfl, rfl⟩, logicFlags_say _ v⟩

/-- A bitwise result is said bit by bit: `bit k` is bit `k` of the word the instruction ends with. -/
theorem writesBits_of_getLsbD {i : Instr} {s : State} {rd : Reg} {v : Word} {bit : Nat → Bool}
    (h : exec i s = .next (logicDone s rd v)) (hbit : ∀ k, k < 16 → v.getLsbD k = bit k) :
    ∃ v : Word, (∀ k, k < 16 → v.getLsbD k = bit k) ∧ WritesRegister i s rd v (fun t => LogicFlagsSay v t.flags) :=
  ⟨v, hbit, writesRegister_logicDone h⟩

/-- Settles O34: each word is its instruction's own, and both operands are registers. -/
theorem bitwiseInstructionsWriteResult : Obligations.BitwiseInstructionsWriteResult := by
  refine fun rd ra rb s => ⟨decode_of_encode_eq rfl rfl rfl, decode_of_encode_eq rfl rfl rfl,
    decode_of_encode_eq rfl rfl rfl, fun ha hb hd => ⟨?and, ?or, ?xor⟩⟩
  case and => exact writesBits_of_getLsbD (exec_and_eq_next.2 ⟨ha, hb, hd, rfl⟩) fun _ _ => BitVec.getLsbD_and
  case or => exact writesBits_of_getLsbD (exec_or_eq_next.2 ⟨ha, hb, hd, rfl⟩) fun _ _ => BitVec.getLsbD_or
  case xor => exact writesBits_of_getLsbD (exec_xor_eq_next.2 ⟨ha, hb, hd, rfl⟩) fun _ _ => BitVec.getLsbD_xor

/-- Settles O35: the second operand is the immediate of either form (R106, R108, R110). -/
theorem bitwiseImmediatesWriteResult : Obligations.BitwiseImmediatesWriteResult := by
  refine fun rd ra imm3 s ha hd => ⟨?andi, ?ori, ?xori⟩
  case andi => exact writesBits_of_getLsbD (exec_andi_eq_next.2 ⟨ha, hd, rfl⟩) fun _ _ => BitVec.getLsbD_and
  case ori => exact writesBits_of_getLsbD (exec_ori_eq_next.2 ⟨ha, hd, rfl⟩) fun _ _ => BitVec.getLsbD_or
  case xori => exact writesBits_of_getLsbD (exec_xori_eq_next.2 ⟨ha, hd, rfl⟩) fun _ _ => BitVec.getLsbD_xor

end Sys2Proof.Proofs.Logic
end

section
/-! The shifts and the rotate: what each does to a word, in numbers or bit by bit, and that the instructions write that word
for the amounts their operand allows (spec/42_shift_rotate.md R112 to R122; the right shifts by C5, log 19). -/

namespace Sys2Proof.Proofs.Shifts
open Sys2Proof Sys2Proof.Machine Sys2Proof.Proofs.LogicIndependence Sys2Proof.Proofs.Logic

/-! ## The four operations on a word (R114) -/

theorem shl_toNat (a : Word) (n : Nat) : (shl a n).toNat = a.toNat * 2 ^ n % 65536 := by
  rw [shl, BitVec.toNat_shiftLeft, Nat.shiftLeft_eq]

theorem shr_toNat (a : Word) (n : Nat) : (shr a n).toNat = a.toNat / 2 ^ n := by
  rw [shr, BitVec.toNat_ushiftRight, Nat.shiftRight_eq_div_pow]

theorem sar_toInt (a : Word) (n : Nat) : (sar a n).toInt = a.toInt / 2 ^ n := by
  rw [sar, BitVec.toInt_sshiftRight, Int.shiftRight_eq_div_pow, Nat.cast_pow, Nat.cast_ofNat]

/-- A bit below `n` is one that left at the top; every other comes from `n` places below. -/
theorem rol_getLsbD (a : Word) {n : Nat} (hn : n ≤ 15) (k : Nat) (hk : k < 16) :
    (rol a n).getLsbD k = a.getLsbD ((k + 16 - n) % 16) := by
  rw [rol, BitVec.getLsbD_or, BitVec.getLsbD_shiftLeft, BitVec.getLsbD_ushiftRight]
  by_cases hkn : k < n
  · have hfrom : (k + 16 - n) % 16 = 16 - n + k := by omega
    simp [hkn, hfrom]
  · have hfrom : (k + 16 - n) % 16 = k - n := by omega
    have hout : a.getLsbD (16 - n + k) = false := BitVec.getLsbD_of_ge a _ (by omega)
    simp [hk, hkn, hfrom, hout]

theorem shl_zero (a : Word) : shl a 0 = a := BitVec.shiftLeft_zero a

theorem shr_zero (a : Word) : shr a 0 = a := BitVec.ushiftRight_zero a

theorem sar_zero (a : Word) : sar a 0 = a := BitVec.sshiftRight_zero

/-- The half that comes in at the bottom is shifted out whole. -/
theorem rol_zero (a : Word) : rol a 0 = a := by
  rw [rol, BitVec.shiftLeft_zero, BitVec.ushiftRight_eq_zero (Nat.le_refl 16), BitVec.or_zero]

/-! ## Writing the result -/

/-- A shift or rotate writes the word it ends with; whatever is known of that word says what was written. -/
theorem writesResult {i : Instr} {s : State} {rd : Reg} {v : Word} {said : Word → Prop}
    (h : exec i s = .next (logicDone s rd v)) (hv : said v) :
    ∃ v : Word, said v ∧ WritesRegister i s rd v (fun t => LogicFlagsSay v t.flags) :=
  ⟨v, hv, writesRegister_logicDone h⟩

/-- Settles O36: the amount is the register's number, at most 15. -/
theorem registerShiftsWriteResult : Obligations.RegisterShiftsWriteResult := by
  rintro rd ra rb s n ha hb hd rfl hn
  refine ⟨?sll, ?srl, ?sra, ?rot⟩
  case sll => exact writesResult (exec_sll_eq_next.2 ⟨ha, hb, hn, hd, rfl⟩) (shl_toNat _ _)
  case srl => exact writesResult (exec_srl_eq_next.2 ⟨ha, hb, hn, hd, rfl⟩) (shr_toNat _ _)
  case sra => exact writesResult (exec_sra_eq_next.2 ⟨ha, hb, hn, hd, rfl⟩) (sar_toInt _ _)
  case rot => exact writesResult (exec_rot_eq_next.2 ⟨ha, hb, hn, hd, rfl⟩) (rol_getLsbD _ hn)

/-- Settles O38: the amount `imm3 + 1` is at most 8, and nothing reads the pending extension. -/
theorem immediateShiftsWriteResult : Obligations.ImmediateShiftsWriteResult := by
  intro rd ra imm3 s ha hd
  have hn : imm3.toNat + 1 ≤ 15 := by omega
  refine ⟨?slli, ?srli, ?srai, ?roti⟩
  case slli => exact writesResult (exec_slli_eq_next.2 ⟨ha, hd, rfl⟩) (shl_toNat _ _)
  case srli => exact writesResult (exec_srli_eq_next.2 ⟨ha, hd, rfl⟩) (shr_toNat _ _)
  case srai => exact writesResult (exec_srai_eq_next.2 ⟨ha, hd, rfl⟩) (sar_toInt _ _)
  case roti => exact writesResult (exec_roti_eq_next.2 ⟨ha, hd, rfl⟩) (rol_getLsbD _ hn)

/-! ## The range of a register's amount (R112) -/

theorem shiftAmountReg_eq_error {v : Word} (h : 15 < v.toNat) : shiftAmountReg v = .error .shiftAmountAbove15 :=
  if_neg (Nat.not_le.2 h)

theorem readReg_of_present {s : State} {i : Reg} (h : regPresent s i) : readReg s i = .ok (regWord s i) :=
  memRead_of_present h

/-- Both operands are read before the amount is found too large. -/
theorem shiftByReg_refused {ra rb : Reg} {s : State} (ha : regPresent s ra) (hb : regPresent s rb)
    (hn : 15 < (regWord s rb).toNat) (f : Word → Nat → Word) (rd : Reg) :
    shiftByReg f rd ra rb s = .refused .shiftAmountAbove15 := by
  rw [shiftByReg, withOperands, readReg_of_present ha, attempt_ok, readReg_of_present hb, attempt_ok,
    shiftAmountReg_eq_error hn, attempt_error]

theorem shiftByReg_of_amount_zero {rd ra rb : Reg} {s : State} {f : Word → Nat → Word} (ha : regPresent s ra)
    (hb : regPresent s rb) (hd : regPresent s rd) (hn : (regWord s rb).toNat = 0) (hf : ∀ a, f a 0 = a) :
    shiftByReg f rd ra rb s = .next (logicDone s rd (regWord s ra)) := by
  have hle : (regWord s rb).toNat ≤ 15 := by omega
  have hdone : finishLogic s rd (f (regWord s ra) (regWord s rb).toNat) = .next (logicDone s rd (regWord s ra)) := by
    rw [hn, hf]
    exact finishLogic_eq_next.2 ⟨hd, rfl⟩
  exact shiftByReg_eq_next.2 ⟨ha, hb, hle, hdone⟩

/-- Each register shift is `shiftByReg` of an operation that gives the operand back for the amount 0. -/
theorem exec_eq_shiftByReg {rd ra rb : Reg} {i : Instr}
    (hi : i ∈ [Instr.sll rd ra rb, .srl rd ra rb, .sra rd ra rb, .rot rd ra rb]) :
    ∃ f : Word → Nat → Word, (∀ s, exec i s = shiftByReg f rd ra rb s) ∧ ∀ a, f a 0 = a := by
  simp only [List.mem_cons, List.not_mem_nil, or_false] at hi
  obtain rfl | rfl | rfl | rfl := hi
  · exact ⟨shl, fun _ => rfl, shl_zero⟩
  · exact ⟨shr, fun _ => rfl, shr_zero⟩
  · exact ⟨sar, fun _ => rfl, sar_zero⟩
  · exact ⟨rol, fun _ => rfl, rol_zero⟩

/-- Settles O37. -/
theorem registerShiftAmountRange : Obligations.RegisterShiftAmountRange := by
  intro rd ra rb s i ha hb hi
  obtain ⟨f, hexec, hzero⟩ := exec_eq_shiftByReg hi
  refine ⟨fun hn => ?above, fun hn hd => writesRegister_logicDone ?zero⟩
  case above => rw [hexec, shiftByReg_refused ha hb hn]
  case zero => rw [hexec, shiftByReg_of_amount_zero ha hb hd hn hzero]

end Sys2Proof.Proofs.Shifts
end

section
/-! The window instructions: the sum that moves the window, in numbers, and what ADJW.1 and ADJW.2 leave
(spec/43_window.md R124 to R126; D7, log 13). -/

namespace Sys2Proof.Proofs.WindowMoves
open Sys2Proof Sys2Proof.Machine

/-! ## The window sum (R124) -/

theorem windowAdd_toNat (w : Window) (imm : Word) : (windowAdd w imm).toNat = (w.toNat + imm.toNat) % 8192 := by
  rw [windowAdd, BitVec.toNat_add, BitVec.extractLsb'_toNat, Nat.shiftRight_zero, Nat.add_mod_mod]

/-- A word and its signed reading differ by a multiple of 2^16, and 2^13 divides it. -/
theorem windowAdd_toNat_signed (w : Window) (imm : Word) :
    ((windowAdd w imm).toNat : Int) = (w.toNat + imm.toInt) % 8192 := by
  have hsigned := BitVec.toInt_eq_toNat_cond imm
  rw [windowAdd_toNat]
  omega

theorem windowAdd_effWindow_short {s : State} (imm3 : BitVec 3) (h : s.hasExt13 = false) :
    ((windowAdd s.w (effWindow s imm3)).toNat : Int) = (s.w.toNat + imm3.toInt) % 8192 := by
  have heff : effWindow s imm3 = imm3.signExtend 16 := by simp [effWindow, h]
  rw [windowAdd_toNat_signed, heff, BitVec.toInt_signExtend_of_le (by decide)]

theorem windowAdd_effWindow_long {s : State} (imm3 : BitVec 3) (h : s.hasExt13 = true) :
    (windowAdd s.w (effWindow s imm3)).toNat = (s.w.toNat + (s.ext13 ++ imm3).toNat) % 8192 := by
  have heff : effWindow s imm3 = s.ext13 ++ imm3 := if_pos h
  rw [windowAdd_toNat, heff]

/-- The form of the immediate is one of two, so its number fixes the new window. -/
theorem eq_windowAdd_effWindow {s : State} {imm3 : BitVec 3} {w : Window}
    (hshort : s.hasExt13 = false → (w.toNat : Int) = (s.w.toNat + imm3.toInt) % 8192)
    (hlong : s.hasExt13 = true → w.toNat = (s.w.toNat + (s.ext13 ++ imm3).toNat) % 8192) :
    w = windowAdd s.w (effWindow s imm3) := by
  apply BitVec.eq_of_toNat_eq
  cases h : s.hasExt13 with
  | false => exact Int.ofNat_inj.1 ((hshort h).trans (windowAdd_effWindow_short imm3 h).symm)
  | true => exact (hlong h).trans (windowAdd_effWindow_long imm3 h).symm

/-! ## The two instructions -/

/-- Settles O40: the new state differs from the old in the window alone, before it retires. -/
theorem adjustWindowMovesTheWindow : Obligations.AdjustWindowMovesTheWindow := fun imm3 _ =>
  ⟨_, exec_adjw1_eq_next.2 rfl, windowAdd_effWindow_short imm3, windowAdd_effWindow_long imm3, fun _ => rfl,
    ⟨rfl, rfl⟩, rfl, rfl, rfl, rfl⟩

/-- The base of a window is the address of its register 0, eight times its number (R21). -/
theorem windowBase_eq_ofNat (w : Window) : windowBase w = BitVec.ofNat 16 (w.toNat * 8) := by
  have hbase : (windowBase w).toNat = w.toNat * 8 := regAddr_toNat w 0#3
  rw [← hbase, BitVec.ofNat_toNat, BitVec.setWidth_eq]

/-- Settles O41: the word that is stored lies in the new window and holds the base of the old one. -/
theorem adjustWindowStoresTheOldBase : Obligations.AdjustWindowStoresTheOldBase := by
  intro rd imm3 s w hshort hlong hpresent
  obtain rfl := eq_windowAdd_effWindow hshort hlong
  refine ⟨_, exec_adjw2_eq_next.2 ⟨hpresent, rfl⟩, rfl, ⟨?base, ?others⟩, ⟨rfl, rfl⟩, rfl, rfl, rfl, rfl⟩
  case base => rw [← windowBase_eq_ofNat, retire_mem, State.setMem_mem, memWord_putWord_same]
  case others => exact fun _ => readByte_putWord_other s.mem _ (windowBase s.w)

end Sys2Proof.Proofs.WindowMoves
end

section
/-! Loads and stores of main memory and of the external bus: each family ends in one way, and an instruction says only the
address and the word (spec/44_load_store.md R128 to R137; spec/20_memory.md R44). -/

namespace Sys2Proof.Proofs.LoadStore
open Sys2Proof Sys2Proof.Machine

theorem storesOnly_of_mem_eq {s t : State} {a v : Word} (h : t.mem = putWord s.mem a v) : StoresOnly s t a v := by
  rw [StoresOnly, h]
  exact ⟨memWord_putWord_same s.mem a v, fun _ => readByte_putWord_other s.mem a v⟩

/-! ## Main memory (R130 to R133) -/

/-- The end of a store: the word at its address, and nothing else but `PC` and `has_ext13`. A load ends so too, its address
that of `Rd`. -/
theorem storesWordOnly {i : Instr} {s : State} {a v : Word} (h : exec i s = .next (retire (s.setMem (putWord s.mem a v)))) :
    ∃ t, exec i s = .next t ∧ StoresOnly s t a v ∧ KeepsWindowAndBus s t ∧ KeepsFlags s t :=
  ⟨_, h, storesOnly_of_mem_eq rfl, ⟨rfl, rfl, rfl, rfl, rfl⟩, rfl, rfl⟩

/-- Settles O43: both read their word before they write `Rd`, LDI at an address that counts from its own word. -/
theorem loadsReadMemory : Obligations.LoadsReadMemory := by
  refine fun rd ra off5 s hform ha hd => ⟨fun hpresent => ?ld, fun hpresent => ?ldi⟩
  case ld => exact storesWordOnly (exec_ld_eq_next.2 ⟨hform, ha, hpresent, hd, rfl⟩)
  case ldi => exact storesWordOnly (exec_ldi_eq_next.2 ⟨hform, ha, hpresent, hd, rfl⟩)

/-- Settles O44: the word is that of `Rs` before the store, which may itself be at the address of `Rs`. -/
theorem storesWriteMemory : Obligations.StoresWriteMemory := by
  refine fun rs ra off5 s hform ha hs => ⟨fun hpresent => ?st, fun hpresent => ?sti⟩
  case st => exact storesWordOnly (exec_st_eq_next.2 ⟨hform, ha, hs, hpresent, rfl⟩)
  case sti => exact storesWordOnly (exec_sti_eq_next.2 ⟨hform, ha, hs, hpresent, rfl⟩)

/-! ## The external bus (R134 to R137) -/

/-- Where the platform's answers are listed, the next of them is the answer, at whatever address. -/
theorem busAnswer_of_busIn_eq_cons {s : State} {u : Word} {us : List Word} (a : Word) (h : s.busIn = u :: us) :
    busAnswer s a = u := by
  rw [busAnswer, h]

/-- The end of a load from the bus: one read is recorded, and the word it records is the one in `Rd`. -/
theorem busLoad_writesAnswer {i : Instr} {s : State} {rd : Reg} {a : Word}
    (h : exec i s = .next (retire ((extRead s a).setMem (putWord s.mem (regAddr s.w rd) (busAnswer s a))))) :
    ∃ t v, exec i s = .next t ∧ (∀ u us, s.busIn = u :: us → v = u) ∧
      t.busLog = s.busLog ++ [.read a v] ∧ t.busIn = s.busIn.tail ∧
      StoresOnly s t (regAddr s.w rd) v ∧ KeepsFlags s t ∧ t.w = s.w ∧ t.ext13 = s.ext13 ∧ t.absent = s.absent :=
  ⟨_, _, h, fun _ _ => busAnswer_of_busIn_eq_cons a, rfl, rfl, storesOnly_of_mem_eq rfl, ⟨rfl, rfl⟩, rfl, rfl, rfl⟩

/-- Settles O45. -/
theorem busLoadsWriteTheAnswer : Obligations.BusLoadsWriteTheAnswer := by
  refine fun rd ra s hd => ⟨fun off5 hform ha => ?ldx, fun off8 hform => ?ldxz⟩
  case ldx => exact busLoad_writesAnswer (exec_ldx_eq_next.2 ⟨hform, ha, hd, rfl⟩)
  case ldxz => exact busLoad_writesAnswer (exec_ldxz_eq_next.2 ⟨hform, hd, rfl⟩)

/-- The end of a store to the bus: one write is recorded, and memory is the same. -/
theorem busStore_writesBusOnly {i : Instr} {s : State} {a v : Word} (h : exec i s = .next (retire (extWrite s a v))) :
    ∃ t, exec i s = .next t ∧ t.busLog = s.busLog ++ [.write a v] ∧ t.busIn = s.busIn ∧
      SameMemory s t ∧ KeepsFlags s t ∧ t.w = s.w ∧ t.ext13 = s.ext13 ∧ t.absent = s.absent :=
  ⟨_, h, rfl, rfl, fun _ => rfl, ⟨rfl, rfl⟩, rfl, rfl, rfl⟩

/-- Settles O46. -/
theorem busStoresWriteTheBus : Obligations.BusStoresWriteTheBus := by
  refine fun rs ra s hs => ⟨fun off5 hform ha => ?stx, fun off8 hform => ?stxz⟩
  case stx => exact busStore_writesBusOnly (exec_stx_eq_next.2 ⟨hform, ha, hs, rfl⟩)
  case stxz => exact busStore_writesBusOnly (exec_stxz_eq_next.2 ⟨hform, hs, rfl⟩)

end Sys2Proof.Proofs.LoadStore
end

section
/-! The moves and EXTI: a move ends as a load does, so what is left to say is the word it writes
(spec/45_move_exti.md R140 to R142). -/

namespace Sys2Proof.Proofs.Moves
open Sys2Proof Sys2Proof.Machine Sys2Proof.Proofs.WordFields Sys2Proof.Proofs.WrittenWords Sys2Proof.Proofs.LongForms
  Sys2Proof.Proofs.LoadStore

/-! ## The two forms of an 8-bit field (R70, R71) -/

theorem effOff8_toInt_short {s : State} (off8 : BitVec 8) (h : s.hasExt13 = false) :
    (effOff8 s off8).toInt = off8.toInt := by
  have heff : effOff8 s off8 = off8.signExtend 16 := by simp [effOff8, h]
  rw [heff, BitVec.toInt_signExtend_of_le (by decide)]

theorem longOk8_of_short {s : State} (off8 : BitVec 8) (h : s.hasExt13 = false) : longOk8 s off8 :=
  fun hlong => absurd (h.symm.trans hlong) Bool.false_ne_true

/-- The word of a long form is `ext13 ++ f[2:0]`, and a field below 8 is its own low three bits. -/
theorem effOff8_long {s : State} {off8 : BitVec 8} (h : s.hasExt13 = true) (hlow : off8.toNat < 8) :
    effOff8 s off8 = BitVec.ofNat 16 (s.ext13.toNat * 8 + off8.toNat) := by
  have heff : effOff8 s off8 = s.ext13 ++ off8.extractLsb' 0 3 := if_pos h
  have hfield : (off8.extractLsb' 0 3).toNat = off8.toNat := Nat.mod_eq_of_lt hlow
  have hnumber : (effOff8 s off8).toNat = s.ext13.toNat * 8 + off8.toNat := by
    simp only [heff, toNat_append_eq_add, hfield, Nat.reducePow]
  rw [← hnumber, BitVec.ofNat_toNat, BitVec.setWidth_eq]

theorem longOk8_of_lt {off8 : BitVec 8} (s : State) (hlow : off8.toNat < 8) : longOk8 s off8 := by
  intro _
  apply BitVec.eq_of_toNat_eq
  rw [BitVec.extractLsb'_toNat, Nat.shiftRight_eq_div_pow, Nat.div_eq_of_lt hlow]
  rfl

/-! ## The instructions -/

/-- Settles O47. -/
theorem movaWritesAnAddress : Obligations.MovaWritesAnAddress := fun _ _ _ hform hd =>
  storesWordOnly (exec_mova_eq_next.2 ⟨hform, hd, rfl⟩)

theorem movi_writesRegister {rd : Reg} {imm8 : BitVec 8} {s : State} (hform : longOk8 s imm8) (hd : regPresent s rd) :
    WritesRegister (.movi rd imm8) s rd (effOff8 s imm8) (KeepsFlags s) :=
  storesWordOnly (exec_movi_eq_next.2 ⟨hform, hd, rfl⟩)

/-- Settles O48: MOVI writes what its field stands for, a short form at every field, a long form at those below 8. -/
theorem moviWritesAConstant : Obligations.MoviWritesAConstant := by
  refine fun rd imm8 s => ⟨decode_of_encode_eq rfl rfl rfl, fun hd => ⟨fun hx => ?short, fun hx hlow => ?long⟩,
    fun hx hhigh => ?refused⟩
  case short => exact ⟨_, effOff8_toInt_short imm8 hx, movi_writesRegister (longOk8_of_short imm8 hx) hd⟩
  case long => exact effOff8_long hx hlow ▸ movi_writesRegister (longOk8_of_lt s hlow) hd
  case refused => exact attempt_offI8_refused hx hhigh _

/-- Settles O49: EXTI touches no word of memory, so nothing refuses it. -/
theorem extiSetsTheExtension : Obligations.ExtiSetsTheExtension := fun imm13 s =>
  ⟨_, exec_exti imm13 s, rfl, rfl, rfl, fun _ => rfl, ⟨rfl, rfl⟩, rfl, rfl, rfl, rfl⟩

end Sys2Proof.Proofs.Moves
end

section
/-! The jumps: each goes to its target or to the next word, by a condition on the flags, and after CMP the condition is
a comparison of the two registers (spec/46_jump.md R145 to R170; D5, D10, D11, logs 13, 16 and 18). -/

namespace Sys2Proof.Proofs.Jumps
open Sys2Proof Sys2Proof.Machine Sys2Proof.Proofs.ArithFlags Sys2Proof.Proofs.LoadStore Sys2Proof.Proofs.Moves

/-! ## One jump -/

/-- Where a J8 instruction goes when it is taken, and where when it is not (R145). -/
def jumpGoal (s : State) (off8 : BitVec 8) (taken : Bool) : Word :=
  if taken then s.pc + 1#16 + effOff8 s off8 else s.pc + 1#16

/-- The end of a jump changes nothing but `PC` and `has_ext13`. -/
theorem jumpsTo_of_exec {i : Instr} {s : State} {target : Word} (h : exec i s = .next (jumpTo s target)) :
    JumpsTo i s target :=
  ⟨_, h, rfl, fun _ => rfl, ⟨rfl, rfl, rfl, rfl, rfl⟩, ⟨rfl, rfl⟩⟩

/-- A jump that is not taken ends as one to the next word would. -/
theorem jumpsTo_jumpGoal {i : Instr} {s : State} {off8 : BitVec 8} {taken : Bool}
    (h : exec i s = .next (if taken = true then jumpTo s (s.pc + 1#16 + effOff8 s off8) else retire s)) :
    JumpsTo i s (jumpGoal s off8 taken) := by
  cases taken <;> exact jumpsTo_of_exec h

/-- Settles O52. -/
theorem alwaysAndNeverJump : Obligations.AlwaysAndNeverJump := fun _ _ hform =>
  ⟨jumpsTo_of_exec (exec_j_eq_next.2 ⟨hform, rfl⟩), jumpsTo_of_exec (exec_jn_eq_next.2 ⟨hform, rfl⟩)⟩

/-- Settles O53: the condition of each jump is its flag or the complement. -/
theorem singleFlagJumps : Obligations.SingleFlagJumps := by
  intro off8 s target hform htarget
  obtain rfl : target = jumpGoal s off8 := funext htarget
  exact ⟨jumpsTo_jumpGoal (exec_jz_eq_next.2 ⟨hform, rfl⟩), jumpsTo_jumpGoal (exec_je_eq_next.2 ⟨hform, rfl⟩),
    jumpsTo_jumpGoal (exec_jnz_eq_next.2 ⟨hform, rfl⟩), jumpsTo_jumpGoal (exec_jne_eq_next.2 ⟨hform, rfl⟩),
    jumpsTo_jumpGoal (exec_js_eq_next.2 ⟨hform, rfl⟩), jumpsTo_jumpGoal (exec_jns_eq_next.2 ⟨hform, rfl⟩),
    jumpsTo_jumpGoal (exec_jc_eq_next.2 ⟨hform, rfl⟩), jumpsTo_jumpGoal (exec_juge_eq_next.2 ⟨hform, rfl⟩),
    jumpsTo_jumpGoal (exec_jnc_eq_next.2 ⟨hform, rfl⟩), jumpsTo_jumpGoal (exec_jult_eq_next.2 ⟨hform, rfl⟩),
    jumpsTo_jumpGoal (exec_jo_eq_next.2 ⟨hform, rfl⟩), jumpsTo_jumpGoal (exec_jno_eq_next.2 ⟨hform, rfl⟩)⟩

/-- Settles O54, as O53. -/
theorem combinedFlagJumps : Obligations.CombinedFlagJumps := by
  intro off8 s target hform htarget
  obtain rfl : target = jumpGoal s off8 := funext htarget
  exact ⟨jumpsTo_jumpGoal (exec_jugt_eq_next.2 ⟨hform, rfl⟩), jumpsTo_jumpGoal (exec_jule_eq_next.2 ⟨hform, rfl⟩),
    jumpsTo_jumpGoal (exec_jsge_eq_next.2 ⟨hform, rfl⟩), jumpsTo_jumpGoal (exec_jslt_eq_next.2 ⟨hform, rfl⟩),
    jumpsTo_jumpGoal (exec_jsgt_eq_next.2 ⟨hform, rfl⟩), jumpsTo_jumpGoal (exec_jsle_eq_next.2 ⟨hform, rfl⟩)⟩

/-! ## Call and return -/

/-- Settles O56: the link is the one word that is stored. -/
theorem jumpAndLinkWritesTheLink : Obligations.JumpAndLinkWritesTheLink := fun _ _ _ hform hd =>
  ⟨_, exec_jal_eq_next.2 ⟨hform, hd, rfl⟩, storesOnly_of_mem_eq rfl, ⟨rfl, rfl, rfl, rfl, rfl⟩, rfl, rfl, rfl⟩

/-- Settles O58: the JAL leaves no extension pending, so the JR completes, and it reads the link. -/
theorem callThenReturnComesBack : Obligations.CallThenReturnComesBack := fun rd _ s hform hd =>
  ⟨_, _, exec_jal_eq_next.2 ⟨hform, hd, rfl⟩, exec_jr_eq_next.2 ⟨rfl, hd, rfl⟩,
    memWord_putWord_same s.mem (regAddr s.w rd) (s.pc + 1#16)⟩

/-! ## The flags of a comparison

What the flags of `a - b` say together, in the forms in which the jumps test them. -/

/-- The flags that CMP leaves. -/
def cmpFlags (a b : Word) : Flags := (subFlags a b false).2

theorem not_eq_true_iff_not {x : Bool} {p : Prop} (h : x = true ↔ p) : (!x) = true ↔ ¬p := by
  rw [Bool.not_eq_true', ← h, Bool.not_eq_true]

theorem cmpFlags_z_iff (a b : Word) : (cmpFlags a b).z = true ↔ a = b :=
  (subtractionFlagsOrderTheOperands a b).2.1

theorem cmpFlags_c_iff (a b : Word) : (cmpFlags a b).c = true ↔ b.toNat ≤ a.toNat :=
  (subtractionFlagsOrderTheOperands a b).1

theorem cmpFlags_notC_iff (a b : Word) : (!(cmpFlags a b).c) = true ↔ a.toNat < b.toNat :=
  (not_eq_true_iff_not (cmpFlags_c_iff a b)).trans Nat.not_le

theorem cmpFlags_sNeV_iff (a b : Word) : ((cmpFlags a b).s != (cmpFlags a b).v) = true ↔ a.toInt < b.toInt :=
  (subtractionFlagsOrderTheOperands a b).2.2

theorem cmpFlags_sEqV_iff (a b : Word) : ((cmpFlags a b).s == (cmpFlags a b).v) = true ↔ b.toInt ≤ a.toInt := by
  rw [← Int.not_lt, ← not_eq_true_iff_not (cmpFlags_sNeV_iff a b), bne, Bool.not_not]

theorem cmpFlags_notZ_iff (a b : Word) : (!(cmpFlags a b).z) = true ↔ a ≠ b :=
  not_eq_true_iff_not (cmpFlags_z_iff a b)

theorem cmpFlags_cAndNotZ_iff (a b : Word) :
    ((cmpFlags a b).c && !(cmpFlags a b).z) = true ↔ b.toNat < a.toNat := by
  rw [Bool.and_eq_true, cmpFlags_c_iff, cmpFlags_notZ_iff, ne_eq, ← BitVec.toNat_inj]
  omega

theorem cmpFlags_notCOrZ_iff (a b : Word) :
    (!(cmpFlags a b).c || (cmpFlags a b).z) = true ↔ a.toNat ≤ b.toNat := by
  rw [Bool.or_eq_true, cmpFlags_notC_iff, cmpFlags_z_iff, ← BitVec.toNat_inj]
  omega

theorem cmpFlags_sEqVAndNotZ_iff (a b : Word) :
    ((cmpFlags a b).s == (cmpFlags a b).v && !(cmpFlags a b).z) = true ↔ b.toInt < a.toInt := by
  rw [Bool.and_eq_true, cmpFlags_sEqV_iff, cmpFlags_notZ_iff, ne_eq, ← BitVec.toInt_inj]
  omega

theorem cmpFlags_sNeVOrZ_iff (a b : Word) :
    ((cmpFlags a b).s != (cmpFlags a b).v || (cmpFlags a b).z) = true ↔ a.toInt ≤ b.toInt := by
  rw [Bool.or_eq_true, cmpFlags_sNeV_iff, cmpFlags_z_iff, ← BitVec.toInt_inj]
  omega

/-! ## A jump after CMP -/

/-- The state in which CMP leaves `s` (R91). -/
def cmpDone (s : State) (ra rb : Reg) : State := retire (s.setFlags (cmpFlags (regWord s ra) (regWord s rb)))

theorem exec_cmp {ra rb : Reg} {s : State} (ha : regPresent s ra) (hb : regPresent s rb) :
    exec (.cmp ra rb) s = .next (cmpDone s ra rb) :=
  exec_cmp_eq_next.2 ⟨ha, hb, rfl⟩

/-- CMP uses up any extension, so the jump after it has the short form. -/
theorem jumpGoal_cmpDone (s : State) (ra rb : Reg) (off8 : BitVec 8) (taken : Bool) :
    jumpGoal (cmpDone s ra rb) off8 taken = if taken then s.pc + 2#16 + off8.signExtend 16 else s.pc + 2#16 := by
  have hnext : (cmpDone s ra rb).pc + 1#16 = s.pc + 2#16 := BitVec.add_assoc s.pc 1#16 1#16
  have hoff : effOff8 (cmpDone s ra rb) off8 = off8.signExtend 16 := if_neg Bool.false_ne_true
  rw [jumpGoal, hnext, hoff]

/-- A jump that is taken after CMP exactly when `holds`. -/
theorem runInstrs_cmp_jump {ra rb : Reg} {off8 : BitVec 8} {s : State} {i : Instr} {taken : Bool} {holds : Prop}
    (ha : regPresent s ra) (hb : regPresent s rb)
    (hjump : JumpsTo i (cmpDone s ra rb) (jumpGoal (cmpDone s ra rb) off8 taken)) (htaken : taken = true ↔ holds) :
    ∃ t, runInstrs [.cmp ra rb, i] s = .next t ∧ SameMemory s t ∧
      (holds → t.pc = s.pc + 2#16 + off8.signExtend 16) ∧ (¬ holds → t.pc = s.pc + 2#16) := by
  obtain ⟨t, hexec, hpc, hmem, -, -⟩ := hjump
  rw [jumpGoal_cmpDone] at hpc
  refine ⟨t, ?run, hmem, fun h => ?isTaken, fun h => ?isNotTaken⟩
  case run => simp only [runInstrs, exec_cmp ha hb, hexec]
  case isTaken => rw [hpc, if_pos (htaken.2 h)]
  case isNotTaken => rw [hpc, if_neg (mt htaken.1 h)]

/-- Settles O55: after CMP the condition that O53 or O54 gives for a jump is the comparison that its name says. -/
theorem compareThenJumpComparesTheRegisters : Obligations.CompareThenJumpComparesTheRegisters := by
  intro ra rb off8 s ha hb i holds hmem
  have hform : longOk8 (cmpDone s ra rb) off8 := longOk8_of_short off8 rfl
  obtain ⟨hjz, hje, hjnz, hjne, -, -, hjc, hjuge, hjnc, hjult, -, -⟩ := singleFlagJumps off8 _ _ hform fun _ => rfl
  obtain ⟨hjugt, hjule, hjsge, hjslt, hjsgt, hjsle⟩ := combinedFlagJumps off8 _ _ hform fun _ => rfl
  simp only [List.mem_cons, Prod.mk.injEq, List.not_mem_nil, or_false] at hmem
  obtain ⟨rfl, rfl⟩ | ⟨rfl, rfl⟩ | ⟨rfl, rfl⟩ | ⟨rfl, rfl⟩ | ⟨rfl, rfl⟩ | ⟨rfl, rfl⟩ | ⟨rfl, rfl⟩ | ⟨rfl, rfl⟩ |
    ⟨rfl, rfl⟩ | ⟨rfl, rfl⟩ | ⟨rfl, rfl⟩ | ⟨rfl, rfl⟩ | ⟨rfl, rfl⟩ | ⟨rfl, rfl⟩ := hmem
  · exact runInstrs_cmp_jump ha hb hje (cmpFlags_z_iff _ _)
  · exact runInstrs_cmp_jump ha hb hjz (cmpFlags_z_iff _ _)
  · exact runInstrs_cmp_jump ha hb hjne (cmpFlags_notZ_iff _ _)
  · exact runInstrs_cmp_jump ha hb hjnz (cmpFlags_notZ_iff _ _)
  · exact runInstrs_cmp_jump ha hb hjuge (cmpFlags_c_iff _ _)
  · exact runInstrs_cmp_jump ha hb hjc (cmpFlags_c_iff _ _)
  · exact runInstrs_cmp_jump ha hb hjugt (cmpFlags_cAndNotZ_iff _ _)
  · exact runInstrs_cmp_jump ha hb hjule (cmpFlags_notCOrZ_iff _ _)
  · exact runInstrs_cmp_jump ha hb hjult (cmpFlags_notC_iff _ _)
  · exact runInstrs_cmp_jump ha hb hjnc (cmpFlags_notC_iff _ _)
  · exact runInstrs_cmp_jump ha hb hjsge (cmpFlags_sEqV_iff _ _)
  · exact runInstrs_cmp_jump ha hb hjsgt (cmpFlags_sEqVAndNotZ_iff _ _)
  · exact runInstrs_cmp_jump ha hb hjsle (cmpFlags_sNeVOrZ_iff _ _)
  · exact runInstrs_cmp_jump ha hb hjslt (cmpFlags_sNeV_iff _ _)

end Sys2Proof.Proofs.Jumps
end

section
/-! The end of a run: the word 0xBFFF is a jump to itself (spec/70_reset_and_hazards.md R232; D22, log 22). -/

namespace Sys2Proof.Proofs.EndOfRun
open Sys2Proof Sys2Proof.Machine Sys2Proof.Proofs.WrittenWords Sys2Proof.Proofs.Moves

theorem decode_endOfRunWord : decode 0xBFFF#16 = .ok (.j 0xFF#8) := decode_of_encode_eq rfl rfl rfl

/-- A jump to the word it stands at leaves nothing changed where no extension is used up. -/
theorem jumpTo_self {s : State} (h : s.hasExt13 = false) : jumpTo s s.pc = s := by
  show { s with hasExt13 := false } = s
  rw [← h]

/-- The short-form offset 0xFF is -1, which takes back the 1 that R145 adds. -/
theorem exec_jumpBack {s : State} (h : s.hasExt13 = false) : exec (.j 0xFF#8) s = .next s := by
  have hoff : effOff8 s 0xFF#8 = 0xFFFF#16 := by simp [effOff8, h]
  have htarget : s.pc + 1#16 + effOff8 s 0xFF#8 = s.pc := by
    rw [hoff, BitVec.add_assoc]
    exact BitVec.add_zero s.pc
  exact exec_j_eq_next.2 ⟨longOk8_of_short _ h, by rw [htarget, jumpTo_self h]⟩

/-- Settles O11. -/
theorem endOfRunStateIsFixed : Obligations.EndOfRunStateIsFixed := by
  rintro s ⟨hx, hword⟩ hpresent
  exact step_eq_next.2 ⟨hpresent, _, hword ▸ decode_endOfRunWord, exec_jumpBack hx⟩

end Sys2Proof.Proofs.EndOfRun
end

section
/-! The assembler's translations: the instructions that a pseudo-instruction becomes have, one after the other, the effect
that its mnemonic names (spec/47_pseudo.md R176, R177, R181, R183; log 20). -/

namespace Sys2Proof.Proofs.Translations
open Sys2Proof Sys2Proof.Machine Sys2Proof.Proofs.LogicIndependence Sys2Proof.Proofs.StateWords
  Sys2Proof.Proofs.LongForms Sys2Proof.Proofs.Logic Sys2Proof.Proofs.Shifts Sys2Proof.Proofs.LoadStore

/-! ## Straight runs -/

theorem runInstrs_singleton (i : Instr) (s : State) : runInstrs [i] s = exec i s := by
  cases h : exec i s <;> simp only [runInstrs, h]

theorem runInstrs_cons_of_next {i : Instr} {s t : State} (h : exec i s = .next t) (is : List Instr) :
    runInstrs (i :: is) s = runInstrs is t := by
  simp only [runInstrs, h]

/-! ## Registers after a logic instruction -/

theorem regWord_logicDone_same (s : State) (rd : Reg) (v : Word) : regWord (logicDone s rd v) rd = v :=
  regWord_retire_putWord s rd v

theorem regWord_logicDone_other (s : State) {rd i : Reg} (v : Word) (h : i ≠ rd) :
    regWord (logicDone s rd v) i = regWord s i :=
  memWord_putWord_other s.mem v fun haddr => h (regAddr_inj haddr).2

theorem readByte_logicDone_other (s : State) {rd : Reg} (v : Word) {k : Nat} (hl : k ≠ lowCell (regAddr s.w rd))
    (hh : k ≠ highCell (regAddr s.w rd)) : readByte (logicDone s rd v).mem k = readByte s.mem k :=
  readByte_putWord_other s.mem _ v hl hh

/-! ## Shifts by any amount (R183) -/

theorem shl_shl (a : Word) (m n : Nat) : shl (shl a m) n = shl a (m + n) := (BitVec.shiftLeft_add a m n).symm

theorem shr_shr (a : Word) (m n : Nat) : shr (shr a m) n = shr a (m + n) := (BitVec.shiftRight_add a m n).symm

theorem sar_sar (a : Word) (m n : Nat) : sar (sar a m) n = sar a (m + n) := BitVec.sshiftRight_add.symm

/-- Bit `k` comes from `n` places below, and that one from `m` places below it, around the word. -/
theorem rol_rol (a : Word) {m n : Nat} (h : m + n ≤ 15) : rol (rol a m) n = rol a (m + n) := by
  apply BitVec.eq_of_getLsbD_eq
  intro k hk
  have hfrom : ((k + 16 - n) % 16 + 16 - m) % 16 = (k + 16 - (m + n)) % 16 := by omega
  rw [rol_getLsbD _ (by omega) k hk, rol_getLsbD _ (by omega) _ (Nat.mod_lt _ (by omega)), rol_getLsbD _ h k hk, hfrom]

/-- `instr` is the immediate shift or rotate by `f`, and two of them in a row shift by the sum of the amounts. -/
structure ImmediateShift (instr : Reg → Reg → BitVec 3 → Instr) (f : Word → Nat → Word) : Prop where
  exec_eq : ∀ (rd ra : Reg) (imm3 : BitVec 3) (s : State), exec (instr rd ra imm3) s = shiftByImm f rd ra imm3 s
  add_amounts : ∀ (a : Word) (m n : Nat), m + n ≤ 15 → f (f a m) n = f a (m + n)

theorem immediateShift_slli : ImmediateShift .slli shl := ⟨fun _ _ _ _ => rfl, fun a m n _ => shl_shl a m n⟩

theorem immediateShift_srli : ImmediateShift .srli shr := ⟨fun _ _ _ _ => rfl, fun a m n _ => shr_shr a m n⟩

theorem immediateShift_srai : ImmediateShift .srai sar := ⟨fun _ _ _ _ => rfl, fun a m n _ => sar_sar a m n⟩

theorem immediateShift_roti : ImmediateShift .roti rol := ⟨fun _ _ _ _ => rfl, fun a _ _ h => rol_rol a h⟩

section
variable {instr : Reg → Reg → BitVec 3 → Instr} {f : Word → Nat → Word}

/-- One word shifts by an amount of 1 to 8. -/
theorem ImmediateShift.exec_ofNat (hi : ImmediateShift instr f) {rd ra : Reg} {s : State} {n : Nat}
    (ha : regPresent s ra) (hd : regPresent s rd) (hn : n < 8) :
    exec (instr rd ra (BitVec.ofNat 3 n)) s = .next (logicDone s rd (f (regWord s ra) (n + 1))) := by
  have hamount : shiftAmountImm (BitVec.ofNat 3 n) = n + 1 := by
    rw [shiftAmountImm, BitVec.toNat_ofNat, Nat.mod_eq_of_lt hn]
  rw [hi.exec_eq, shiftByImm, readReg_of_present ha, attempt_ok, hamount]
  exact finishLogic_eq_next.2 ⟨hd, rfl⟩

/-- The words for an amount of 1 to 15: one word, or a shift by 8 and one by the rest, which reads what the first wrote. -/
theorem ImmediateShift.runInstrs_amountWords (hi : ImmediateShift instr f) {rd ra : Reg} {s : State} {n : Nat}
    (ha : regPresent s ra) (hd : regPresent s rd) (hpos : n ≠ 0) (hn : n ≤ 15) :
    ∃ t, runInstrs (amountWords instr rd ra n) s = .next t ∧ regWord t rd = f (regWord s ra) n := by
  rw [amountWords, if_neg hpos]
  by_cases hone : n ≤ 8
  · have hsum : n - 1 + 1 = n := by omega
    have hexec := hi.exec_ofNat ha hd (n := n - 1) (by omega)
    rw [hsum] at hexec
    rw [if_pos hone, runInstrs_singleton]
    exact ⟨_, hexec, regWord_logicDone_same s rd _⟩
  · have hsum : 8 + (n - 9 + 1) = n := by omega
    have hfirst := hi.exec_ofNat ha hd (n := 7) (by omega)
    have hsecond := hi.exec_ofNat (s := logicDone s rd (f (regWord s ra) 8)) hd hd (n := n - 9) (by omega)
    rw [regWord_logicDone_same, hi.add_amounts _ _ _ (by omega), hsum] at hsecond
    rw [if_neg hone, runInstrs_cons_of_next hfirst, runInstrs_singleton]
    exact ⟨_, hsecond, regWord_logicDone_same _ rd _⟩

end

/-- Settles O39: the run leaves the one-step word, and O36's facts about the four operations say it in numbers. -/
theorem translatedShiftsEqualOneShift : Obligations.TranslatedShiftsEqualOneShift := by
  intro rd ra n s ha hd hn
  have hpos : n.toNat ≠ 0 := fun h => hn (BitVec.eq_of_toNat_eq h)
  have hle : n.toNat ≤ 15 := by omega
  refine ⟨?slli, ?srli, ?srai, ?roti⟩
  case slli =>
    obtain ⟨t, hrun, hword⟩ := immediateShift_slli.runInstrs_amountWords ha hd hpos hle
    exact ⟨t, hrun, hword ▸ shl_toNat _ _⟩
  case srli =>
    obtain ⟨t, hrun, hword⟩ := immediateShift_srli.runInstrs_amountWords ha hd hpos hle
    exact ⟨t, hrun, hword ▸ shr_toNat _ _⟩
  case srai =>
    obtain ⟨t, hrun, hword⟩ := immediateShift_srai.runInstrs_amountWords ha hd hpos hle
    exact ⟨t, hrun, hword ▸ sar_toInt _ _⟩
  case roti =>
    obtain ⟨t, hrun, hword⟩ := immediateShift_roti.runInstrs_amountWords ha hd hpos hle
    exact ⟨t, hrun, hword ▸ rol_getLsbD _ hle⟩

/-! ## Frames of windows (R176, R177) -/

/-- Either form of an ADJW is one instruction whose immediate is the value, in a state with the same window, memory and
configuration: the state itself, or the one that the EXTI leaves. -/
theorem runInstrs_windowWords (imm : Word) (instr : BitVec 3 → Instr) {s : State} (h : s.hasExt13 = false) :
    ∃ s', runInstrs (windowWords imm instr) s = exec (instr (lowOf imm)) s' ∧ effWindow s' (lowOf imm) = imm ∧
      s'.w = s.w ∧ s'.mem = s.mem ∧ s'.absent = s.absent := by
  rw [windowWords]
  by_cases hshort : sext3 (lowOf imm) = imm
  · have heff : effWindow s (lowOf imm) = sext3 (lowOf imm) := by simp [effWindow, h, sext3]
    rw [if_pos hshort, runInstrs_singleton]
    exact ⟨s, rfl, heff.trans hshort, rfl, rfl, rfl⟩
  · rw [if_neg hshort, longPair, runInstrs_cons_of_next (exec_exti _ s), runInstrs_singleton]
    exact ⟨extiDone s (extOf imm), rfl, extOf_append_lowOf imm, rfl, rfl, rfl⟩

theorem windowAdd_neg (w : Window) (size : Word) : windowAdd w (-size) = w - size.extractLsb' 0 13 := by
  apply BitVec.eq_of_toNat_eq
  simp only [windowAdd, BitVec.toNat_add, BitVec.toNat_sub, BitVec.extractLsb'_toNat, BitVec.toNat_neg,
    Nat.shiftRight_zero]
  omega

theorem windowAdd_sub_cancel (w : Window) (size : Word) : windowAdd (w - size.extractLsb' 0 13) size = w :=
  BitVec.sub_add_cancel w _

/-- ENTR moves the window down, stores the old base in the new one, and leaves no extension for what follows. -/
theorem runInstrs_entr {rd : Reg} {size : Word} {s : State} (hx : s.hasExt13 = false)
    (hpresent : memPresent s (regAddr (s.w - size.extractLsb' 0 13) rd) = true) :
    ∃ t, runInstrs (expand (.entr rd size)) s = .next t ∧ t.w = s.w - size.extractLsb' 0 13 ∧ t.hasExt13 = false ∧
      t.mem = putWord s.mem (regAddr (s.w - size.extractLsb' 0 13) rd) (windowBase s.w) := by
  obtain ⟨s', hrun, heff, hw, hmem, habsent⟩ := runInstrs_windowWords (-size) (fun imm3 => .adjw2 rd imm3) hx
  have hnew : windowAdd s'.w (effWindow s' (lowOf (-size))) = s.w - size.extractLsb' 0 13 := by
    rw [heff, hw, windowAdd_neg]
  have hexec := exec_adjw2_eq_next.2 ⟨hnew.symm ▸ (memPresent_congr habsent _).trans hpresent, rfl⟩
  rw [hnew] at hexec
  refine ⟨_, hrun.trans hexec, rfl, rfl, ?_⟩
  rw [retire_mem, State.setMem_mem, hmem, hw]

/-- LEAV moves the window up and stores nothing, whatever its register operand. -/
theorem runInstrs_leav (rd : Reg) (size : Word) {s : State} (hx : s.hasExt13 = false) :
    ∃ t, runInstrs (expand (.leav rd size)) s = .next t ∧ t.w = windowAdd s.w size ∧ t.mem = s.mem := by
  obtain ⟨s', hrun, heff, hw, hmem, -⟩ := runInstrs_windowWords size (fun imm3 => .adjw1 imm3) hx
  refine ⟨_, hrun.trans (exec_adjw1_eq_next.2 rfl), ?_, hmem⟩
  rw [retire_w, State.setW_w, heff, hw]

/-- Settles O42: the one word that is stored is the base that ENTR leaves in `Rd` of the new window. -/
theorem enterThenLeaveRestoresTheWindow : Obligations.EnterThenLeaveRestoresTheWindow := by
  intro rd rd' size s hx hpresent
  obtain ⟨t, hentr, htw, htx, htmem⟩ := runInstrs_entr hx hpresent
  obtain ⟨u, hleav, huw, humem⟩ := runInstrs_leav rd' size htx
  have hstored : t.mem = putWord s.mem (regAddr t.w rd) (regAddr s.w 0#3) := htw ▸ htmem
  refine ⟨t, u, hentr, htw, ?base, hleav, ?back, storesOnly_of_mem_eq (humem.trans hstored)⟩
  case base => rw [regWord, hstored, memWord_putWord_same]
  case back => rw [huw, htw, windowAdd_sub_cancel]

/-! ## Exchange (R181) -/

theorem exec_xor {rd ra rb : Reg} {s : State} (ha : regPresent s ra) (hb : regPresent s rb) (hd : regPresent s rd) :
    exec (.xor rd ra rb) s = .next (logicDone s rd (regWord s ra ^^^ regWord s rb)) :=
  exec_xor_eq_next.2 ⟨ha, hb, hd, rfl⟩

/-- The state that the three XORs leave, by the words they write: both operands combined, then each alone. -/
def exchangeDone (s : State) (ra rb : Reg) : State :=
  logicDone (logicDone (logicDone s ra (regWord s ra ^^^ regWord s rb)) rb (regWord s ra)) ra (regWord s rb)

theorem xor_xor_cancel_right (a b : Word) : b ^^^ (a ^^^ b) = a := by
  rw [BitVec.xor_comm a, ← BitVec.xor_assoc, BitVec.xor_self, BitVec.zero_xor]

theorem xor_xor_cancel_left (a b : Word) : (a ^^^ b) ^^^ a = b := by
  rw [BitVec.xor_comm, ← BitVec.xor_assoc, BitVec.xor_self, BitVec.zero_xor]

/-- The second XOR takes the second word out of the combined one, and the third takes out the first. -/
theorem runInstrs_xchg {ra rb : Reg} {s : State} (ha : regPresent s ra) (hb : regPresent s rb) (h : ra ≠ rb) :
    runInstrs (expand (.xchg ra rb)) s = .next (exchangeDone s ra rb) := by
  have hfirst := exec_xor ha hb ha
  have hsecond := exec_xor (s := logicDone s ra (regWord s ra ^^^ regWord s rb)) hb ha hb
  rw [regWord_logicDone_same, regWord_logicDone_other _ _ h.symm, xor_xor_cancel_right] at hsecond
  have hthird := exec_xor (s := logicDone (logicDone s ra (regWord s ra ^^^ regWord s rb)) rb (regWord s ra)) ha hb ha
  rw [regWord_logicDone_same, regWord_logicDone_other _ _ h, regWord_logicDone_same,
    xor_xor_cancel_left] at hthird
  rw [expand, if_neg h, runInstrs_cons_of_next hfirst, runInstrs_cons_of_next hsecond, runInstrs_singleton,
    hthird, exchangeDone]

/-- Settles O60: the last XOR writes the flags, and all three write the two registers alone. -/
theorem exchangeSwapsTheRegisters : Obligations.ExchangeSwapsTheRegisters := by
  refine fun ra rb s ha hb => ⟨fun h => if_pos h, fun h =>
    ⟨exchangeDone s ra rb, runInstrs_xchg ha hb h, regWord_logicDone_same _ ra _, ?second, logicFlags_say _ _,
      ⟨rfl, rfl, rfl, rfl, rfl⟩, fun k hla hha hlb hhb => ?others⟩⟩
  case second => rw [exchangeDone, regWord_logicDone_other _ _ h.symm, regWord_logicDone_same]
  case others =>
    calc readByte (exchangeDone s ra rb).mem k
      _ = readByte (logicDone (logicDone s ra (regWord s ra ^^^ regWord s rb)) rb (regWord s ra)).mem k :=
        readByte_logicDone_other _ _ hla hha
      _ = readByte (logicDone s ra (regWord s ra ^^^ regWord s rb)).mem k := readByte_logicDone_other _ _ hlb hhb
      _ = readByte s.mem k := readByte_logicDone_other _ _ hla hha

end Sys2Proof.Proofs.Translations
end
